-- ==== Sys2Proof/Word.lean ====
section
/-! DEFINITION. The word types of the link block: bytes, 16-bit and 32-bit words, and the five-byte
link address (spec 00_scope.md R6, R13; 10_state.md R20). -/

namespace Sys2Proof

/-- One byte (R6, R13). -/
abbrev Byte := BitVec 8

/-- A 16-bit word: CRC states, the bind countdown, the TICK delay (R21, R94). -/
abbrev Half := BitVec 16

/-- A 32-bit word: a channel value in two's complement, or a mixer state (R40, R231). -/
abbrev Word := BitVec 32

/-- Five bytes named by index, as the operand `addr[0..4]` of format A, `TXA[0..4]` and
`CFG.BIND_ADDR[0..4]` are (R27, R93). -/
structure Addr where
  a0 : Byte
  a1 : Byte
  a2 : Byte
  a3 : Byte
  a4 : Byte
deriving DecidableEq, Repr, Inhabited

/-- The bytes of an address in index order. -/
def Addr.toList (a : Addr) : List Byte := [a.a0, a.a1, a.a2, a.a3, a.a4]

@[simp] theorem Addr.length_toList (a : Addr) : a.toList.length = 5 := rfl

end Sys2Proof
end

