-- ==== Sys2Proof/Syntax.lean ====
section
/-! DEFINITION. The fifteen operations of the link block (spec 30_encoding.md R92), one
constructor per row of the opcode table, with their mnemonics. -/

namespace Sys2Proof

/-- The operation set (R92). Operands stand as R94 assembles them: `len`, `flags`, `n`, `dmin`,
`dmax` and list bytes as unsigned bytes, CRC operands as 16-bit words, `v` as the 32-bit word
whose two's-complement reading is the channel value. The count byte `k` is the list's length. -/
inductive Instr where
  /-- 0x00 INIT (R236). -/
  | init
  /-- 0x01 TICK (R240). -/
  | tick
  /-- 0x02 DEINIT (R250). -/
  | deinit
  /-- 0x10 CRC.UPD `crc`, `a`, `n` (R130). -/
  | crcUpd (crc : Half) (a : Byte) (n : Byte)
  /-- 0x11 CRC.SEED `len`, `addr` (R131). -/
  | crcSeed (len : Byte) (addr : Addr)
  /-- 0x12 CRC.MSG `seed`, `m` (R132). -/
  | crcMsg (seed : Half) (m : List Byte)
  /-- 0x20 SCR `m` (R150). -/
  | scr (m : List Byte)
  /-- 0x30 LL.CFG `flags` (R161). -/
  | llCfg (flags : Byte)
  /-- 0x31 LL.SETADDR `len`, `addr` (R162). -/
  | llSetaddr (len : Byte) (addr : Addr)
  /-- 0x32 LL.SEND `m` (R170). -/
  | llSend (m : List Byte)
  /-- 0x40 SCALE `v`, `dmin`, `dmax` (R190). -/
  | scale (v : Word) (dmin dmax : Byte)
  /-- 0x41 ARM `v` (R195). -/
  | arm (v : Word)
  /-- 0x50 CSUM `m` (R210). -/
  | csum (m : List Byte)
  /-- 0x51 ENC.BIND (R214). -/
  | encBind
  /-- 0x52 ENC.DATA (R215). -/
  | encData
deriving DecidableEq, Repr

/-- The pseudo-instruction BIND, another name of INIT (R126). -/
def Instr.bind : Instr := .init

/-- The pseudo-instruction RESET, another name of DEINIT (R126). -/
def Instr.reset : Instr := .deinit

/-- The mnemonic of R92. -/
def Instr.mnemonic : Instr → String
  | .init => "INIT"
  | .tick => "TICK"
  | .deinit => "DEINIT"
  | .crcUpd _ _ _ => "CRC.UPD"
  | .crcSeed _ _ => "CRC.SEED"
  | .crcMsg _ _ => "CRC.MSG"
  | .scr _ => "SCR"
  | .llCfg _ => "LL.CFG"
  | .llSetaddr _ _ => "LL.SETADDR"
  | .llSend _ => "LL.SEND"
  | .scale _ _ _ => "SCALE"
  | .arm _ => "ARM"
  | .csum _ => "CSUM"
  | .encBind => "ENC.BIND"
  | .encData => "ENC.DATA"

end Sys2Proof
end

