-- ==== Sys2Proof/WellFormed.lean ====
section
/-! DEFINITION. Which terms of `Instr` are commands of the block (spec 30_encoding.md R94, R95,
R121): the count `k` fits a byte, and the shift count of CRC.UPD is 1 to 8. -/

namespace Sys2Proof

/-- A byte list's count byte `k` ranges over 0 to 255 (R95). -/
def countFits (m : List Byte) : Bool := m.length ≤ 255

/-- The shift count CRC.UPD gives a meaning: 1 to 8 (R121, R130). -/
def shiftCountOk (n : Byte) : Bool := 1 ≤ n.toNat && n.toNat ≤ 8

/-- The well-formed instructions: those some command of the port encodes. -/
def Instr.wellFormed : Instr → Bool
  | .init => true
  | .tick => true
  | .deinit => true
  | .crcUpd _ _ n => shiftCountOk n
  | .crcSeed _ _ => true
  | .crcMsg _ m => countFits m
  | .scr m => countFits m
  | .llCfg _ => true
  | .llSetaddr _ _ => true
  | .llSend m => countFits m
  | .scale _ _ _ => true
  | .arm _ => true
  | .csum m => countFits m
  | .encBind => true
  | .encData => true

end Sys2Proof
end

