-- ==== Sys2Proof/Decode.lean ====
section
/-! DEFINITION. The decoder of the command port, total on any byte list, rejecting by name, and the
encoder written from the same tables (spec 30_encoding.md Part A: R90 to R96, R120, R121). -/

namespace Sys2Proof

/-- Why no instruction comes out of the command stream. -/
inductive DecodeError where
  /-- No opcode byte is pending: there is no command to decode (R90). -/
  | noCommand
  /-- The opcode byte is none of the fifteen (R120, R272). -/
  | reservedOpcode
  /-- The stream ends before the command's last operand byte, or CRC.UPD has `n` outside 1..8
  (R121, R272). -/
  | malformedOperands
deriving DecidableEq, Repr

/-- A decoded command and the rest of the stream. -/
abbrev Decoded := Except DecodeError (Instr × List Byte)

/-! ### Operand assembly (R94) -/

/-- A 16-bit operand is `byte_hi ++ byte_lo` (R94). -/
def halfOfBytes (hi lo : Byte) : Half := hi ++ lo

/-- The 32-bit operand is `b1 ++ b2 ++ b3 ++ b4` (R94). -/
def wordOfBytes (b1 b2 b3 b4 : Byte) : Word := b1 ++ b2 ++ b3 ++ b4

/-- Byte `i` of a 32-bit operand, `i = 0` the least significant. -/
def wordByte (v : Word) (i : Nat) : Byte := v.extractLsb' (8 * i) 8

/-- The high byte of a 16-bit number (R68). -/
def hiByte (h : Half) : Byte := h.extractLsb' 8 8

/-- The low byte of a 16-bit number (R68). -/
def loByte (h : Half) : Byte := h.extractLsb' 0 8

/-- The count byte `k` of a list operand (R95). -/
def countByte (m : List Byte) : Byte := BitVec.ofNat 8 m.length

/-! ### The formats (R93): operand bytes after the opcode byte -/

/-- `k` bytes off the front of the stream, or the refusal of a stream that ends early (R121). -/
def takeOperand (k : Nat) (bs : List Byte) (f : List Byte → Instr) : Decoded :=
  if k ≤ bs.length then .ok (f (bs.take k), bs.drop k) else .error .malformedOperands

/-- Format C: `flags`. -/
def readC (f : Byte → Instr) : List Byte → Decoded
  | flags :: rest => .ok (f flags, rest)
  | _ => .error .malformedOperands

/-- Format U: `crc[15:8]`, `crc[7:0]`, `a`, `n`; `n` outside 1..8 is refused (R121). -/
def readU (f : Half → Byte → Byte → Instr) : List Byte → Decoded
  | hi :: lo :: a :: n :: rest =>
    if shiftCountOk n then .ok (f (halfOfBytes hi lo) a n, rest) else .error .malformedOperands
  | _ => .error .malformedOperands

/-- Format A: `len`, `a0` to `a4`. -/
def readA (f : Byte → Addr → Instr) : List Byte → Decoded
  | len :: b0 :: b1 :: b2 :: b3 :: b4 :: rest => .ok (f len ⟨b0, b1, b2, b3, b4⟩, rest)
  | _ => .error .malformedOperands

/-- Format R: `v`, four bytes. -/
def readR (f : Word → Instr) : List Byte → Decoded
  | b1 :: b2 :: b3 :: b4 :: rest => .ok (f (wordOfBytes b1 b2 b3 b4), rest)
  | _ => .error .malformedOperands

/-- Format S: `v`, four bytes, then `dmin`, `dmax`. -/
def readS (f : Word → Byte → Byte → Instr) : List Byte → Decoded
  | b1 :: b2 :: b3 :: b4 :: dmin :: dmax :: rest =>
    .ok (f (wordOfBytes b1 b2 b3 b4) dmin dmax, rest)
  | _ => .error .malformedOperands

/-- Format M: `k`, then `k` bytes. -/
def readM (f : List Byte → Instr) : List Byte → Decoded
  | k :: rest => takeOperand k.toNat rest f
  | _ => .error .malformedOperands

/-- Format G: `s[15:8]`, `s[7:0]`, `k`, then `k` bytes. -/
def readG (f : Half → List Byte → Instr) : List Byte → Decoded
  | hi :: lo :: k :: rest => takeOperand k.toNat rest (f (halfOfBytes hi lo))
  | _ => .error .malformedOperands

/-- The operands of the command whose opcode is `op` (R92); every other opcode is reserved
(R120). -/
def decodeOperands (op : Nat) (bs : List Byte) : Decoded :=
  match op with
  | 0x00 => .ok (.init, bs)
  | 0x01 => .ok (.tick, bs)
  | 0x02 => .ok (.deinit, bs)
  | 0x10 => readU .crcUpd bs
  | 0x11 => readA .crcSeed bs
  | 0x12 => readG .crcMsg bs
  | 0x20 => readM .scr bs
  | 0x30 => readC .llCfg bs
  | 0x31 => readA .llSetaddr bs
  | 0x32 => readM .llSend bs
  | 0x40 => readS .scale bs
  | 0x41 => readR .arm bs
  | 0x50 => readM .csum bs
  | 0x51 => .ok (.encBind, bs)
  | 0x52 => .ok (.encData, bs)
  | _ => .error .reservedOpcode

/-- The command at the head of the stream (R90): the opcode byte first, then its operands. -/
def decode : List Byte → Decoded
  | [] => .error .noCommand
  | op :: bs => decodeOperands op.toNat bs

/-- How many bytes the command at the head of the stream has (R93, R95), as its opcode byte and,
for formats M and G, its count byte say; one for a reserved opcode, whose length is unknown. -/
def commandLength (bs : List Byte) : Nat :=
  match (bs.headD 0).toNat with
  | 0x10 | 0x41 => 5
  | 0x11 | 0x31 | 0x40 => 7
  | 0x12 => 4 + (bs.getD 3 0).toNat
  | 0x20 | 0x32 | 0x50 => 2 + (bs.getD 1 0).toNat
  | 0x30 => 2
  | _ => 1

/-! ### The encoder -/

/-- The four bytes of a 32-bit operand, most significant first (R68, R94). -/
def wordBytes (v : Word) : List Byte := [wordByte v 3, wordByte v 2, wordByte v 1, wordByte v 0]

/-- The bytes of a command (R92, R93). -/
def encode : Instr → List Byte
  | .init => [0x00]
  | .tick => [0x01]
  | .deinit => [0x02]
  | .crcUpd crc a n => [0x10, hiByte crc, loByte crc, a, n]
  | .crcSeed len addr => 0x11 :: len :: addr.toList
  | .crcMsg seed m => 0x12 :: hiByte seed :: loByte seed :: countByte m :: m
  | .scr m => 0x20 :: countByte m :: m
  | .llCfg flags => [0x30, flags]
  | .llSetaddr len addr => 0x31 :: len :: addr.toList
  | .llSend m => 0x32 :: countByte m :: m
  | .scale v dmin dmax => 0x40 :: wordBytes v ++ [dmin, dmax]
  | .arm v => 0x41 :: wordBytes v
  | .csum m => 0x50 :: countByte m :: m
  | .encBind => [0x51]
  | .encData => [0x52]

/-! ### Words as the opcode table numbers them -/

/-- The longest command: CRC.MSG with 255 list bytes (R95). -/
def maxCommandLength : Nat := 259

/-- The bytes of an instruction whose bits are `w` (bit 0 the least significant bit of the first
byte), `nbits` of them given and every bit above zero, up to the longest command. -/
def tableBytes (nbits w : Nat) : List Byte :=
  (List.range maxCommandLength).map fun i => BitVec.ofNat 8 ((w % 2 ^ nbits) >>> (8 * i))

/-- Those bytes cut to the command's own length. -/
def tableCommand (nbits w : Nat) : List Byte :=
  (tableBytes nbits w).take (commandLength (tableBytes nbits w))

/-- The instruction the decoder reads from that word. -/
def decodeTableWord (nbits w : Nat) : Option Instr :=
  match decode (tableCommand nbits w) with
  | .ok (i, _) => some i
  | .error _ => none

end Sys2Proof
end

