-- ==== Sys2Proof/Config.lean ====
section
/-! DEFINITION. The constants the document fixes (spec 00_scope.md table 4.1), the immutable
configuration record `CFG` (R5, table 4.2) with its well-formedness, and the free values: opaque
constants with no body, of which nothing can be proved but what their type says. -/

namespace Sys2Proof

/-- `CRC_POLY` (table 4.1). -/
def Config.crcPoly : Half := 0x1021

/-- `CRC_INIT` (table 4.1). -/
def Config.crcInit : Half := 0xFFFF

/-- `KEY_LEN` (table 4.1, R60). -/
def Config.keyLen : Nat := 15

/-- `BIND_HDR` (table 4.1, R110). -/
def Config.bindHdr : List Byte := [0x18, 0x04, 0x06]

/-- `NUM_CHANNELS` (R48, R64). -/
def Config.numChannels : Nat := 10

/-- `AUTOBIND` (R48): autobind is always reported true. -/
def Config.autobind : Bool := true

/-- `TELEMETRY` (R48): telemetry is reported unsupported. -/
def Config.telemetrySupported : Bool := false

/-- The record `CFG` (R5, table 4.2), one field a row, in the table's order. The mixer `MIX` is a
function and stands beside the record as `Config.mix`. No operation writes any of it. -/
structure Cfg where
  key : Vector Byte 15
  bindAddr : Addr
  noackBit : Bool
  preIfSet : Byte
  preIfClear : Byte
  crcEnMask : Byte
  modeMask : Byte
  initFlags : Byte
  chMax : Nat
  thrMin : Byte
  thrMax : Byte
  rudMin : Byte
  rudMax : Byte
  ailMin : Byte
  ailMax : Byte
  eleMin : Byte
  eleMax : Byte
  chThr : Fin 10
  chRud : Fin 10
  chAil : Fin 10
  chEle : Fin 10
  chArm : Fin 10
  chFlip : Fin 10
  chLed : Fin 10
  chHeadless : Fin 10
  chRth : Fin 10
  auxThresh : Int
  trim0 : Byte
  trim1 : Byte
  armBit : Byte
  disarmBit : Byte
  expertBit : Byte
  flipBit : Byte
  ledBit : Byte
  headlessBit : Byte
  rthBit : Byte
  bindCount : Nat
  period : Nat
  initDelay : Nat
  bindEst : Int
  mixSeed : Word
  serialLen : Nat
  nZero : Nat
deriving DecidableEq, Repr

/-- The constraint column of table 4.2: what a well-formed `CFG` satisfies, decided values
included. A claim that needs one of these names this predicate as a premise. -/
abbrev Cfg.WellFormed (c : Cfg) : Prop :=
  c.noackBit = true ∧ c.preIfSet = 0x55 ∧ c.preIfClear = 0xAA ∧
  c.crcEnMask ∈ ([0x01, 0x02, 0x04, 0x08, 0x10, 0x20, 0x40, 0x80] : List Byte) ∧
  c.modeMask &&& c.crcEnMask = 0 ∧ c.initFlags &&& c.crcEnMask ≠ 0 ∧
  (1 ≤ c.chMax ∧ c.chMax ≤ 2 ^ 22) ∧
  (c.thrMin = 0 ∧ c.thrMax = 225 ∧ c.rudMin = 225 ∧ c.rudMax = 0 ∧
    c.ailMin = 0 ∧ c.ailMax = 225 ∧ c.eleMin = 225 ∧ c.eleMax = 0) ∧
  c.auxThresh = 0 ∧ (1 ≤ c.bindCount ∧ c.bindCount ≤ 65535) ∧ c.period = 4500 ∧
  (0 < c.initDelay ∧ c.initDelay < c.period) ∧ 1 ≤ c.serialLen

/-! ### Open parameters of the hardware (log entry 2) -/

/-- `KEY[0..14]` (D29, OPEN). -/
opaque Config.key : Vector Byte 15

/-- `BIND_ADDR[0..4]` (D29, OPEN). -/
opaque Config.bindAddr : Addr

/-- Which single bit `CRC_EN_MASK` has (D18, OPEN). -/
opaque Config.crcEnBit : Fin 8

/-- `MODE_MASK` before the CRC-enable bit is taken out of it (D18, OPEN). -/
opaque Config.modeBits : Byte

/-- `INIT_FLAGS` but for its CRC-enable bit (D18). -/
opaque Config.initBits : Byte

/-- `CH_MAX` less one (D13, OPEN): every value of the range 1 to 2^22 is possible. -/
opaque Config.chMaxLess : Fin 4194304

/-- The nine channel roles `CH_*` (D29, OPEN), numbered 0 to 8 in table 4.2's order. -/
opaque Config.chRole : Fin 9 → Fin 10

/-- `TRIM0`, `TRIM1` (D29, OPEN). -/
opaque Config.trim : Fin 2 → Byte

/-- The seven flag masks `ARM_BIT`, `DISARM_BIT`, `EXPERT_BIT`, `FLIP_BIT`, `LED_BIT`,
`HEADLESS_BIT`, `RTH_BIT` (D29, OPEN), numbered in this order. -/
opaque Config.mask : Fin 7 → Byte

/-- `INIT_DELAY` less one (D26, OPEN): every value with 0 < INIT_DELAY < 4500 is possible. -/
opaque Config.initDelayLess : Fin 4499

/-- `BIND_EST` (D26, OPEN). -/
opaque Config.bindEst : Int

/-- `MIX_SEED` (D24, OPEN). -/
opaque Config.mixSeed : Word

/-- `SERIAL_LEN` less one (D24, OPEN). -/
opaque Config.serialLenLess : Nat

/-- `N_ZERO` (D24, OPEN). -/
opaque Config.nZero : Nat

/-- `MIX`, the 32-bit mixer, kept uninterpreted: only that it is a function of its two operands
is known (R231 (a), D24). -/
opaque Config.mix : Word → Byte → Word

/-- The hardware's own `CFG`: the decided values of table 4.2 and, in every open field, an opaque
constant brought into the field's constraint. `BIND_COUNT` is the hardware value 150. -/
def Config.hardware : Cfg where
  key := Config.key
  bindAddr := Config.bindAddr
  noackBit := true
  preIfSet := 0x55
  preIfClear := 0xAA
  crcEnMask := BitVec.twoPow 8 Config.crcEnBit.val
  modeMask := Config.modeBits &&& ~~~(BitVec.twoPow 8 Config.crcEnBit.val)
  initFlags := Config.initBits ||| BitVec.twoPow 8 Config.crcEnBit.val
  chMax := Config.chMaxLess.val + 1
  thrMin := 0
  thrMax := 225
  rudMin := 225
  rudMax := 0
  ailMin := 0
  ailMax := 225
  eleMin := 225
  eleMax := 0
  chThr := Config.chRole 0
  chRud := Config.chRole 1
  chAil := Config.chRole 2
  chEle := Config.chRole 3
  chArm := Config.chRole 4
  chFlip := Config.chRole 5
  chLed := Config.chRole 6
  chHeadless := Config.chRole 7
  chRth := Config.chRole 8
  auxThresh := 0
  trim0 := Config.trim 0
  trim1 := Config.trim 1
  armBit := Config.mask 0
  disarmBit := Config.mask 1
  expertBit := Config.mask 2
  flipBit := Config.mask 3
  ledBit := Config.mask 4
  headlessBit := Config.mask 5
  rthBit := Config.mask 6
  bindCount := 150
  period := 4500
  initDelay := Config.initDelayLess.val + 1
  bindEst := Config.bindEst
  mixSeed := Config.mixSeed
  serialLen := Config.serialLenLess + 1
  nZero := Config.nZero

/-! ### Free values of the ports (log entries 4, 5)

Each is applied to the count of port reads so far, so that two reads are two free values. -/

/-- What `CHAN` presents at a read no script fixes (R40, R41). -/
opaque Config.freeChan : Nat → Word

/-- What `POWER` presents at a read no script fixes (R40, R42). -/
opaque Config.freePower : Nat → Byte

/-- Whether `SERIAL` is present at a read no script fixes (R43). -/
opaque Config.freeSerialPresent : Nat → Bool

/-- The bytes of `SERIAL` at a read no script fixes (R43). -/
opaque Config.freeSerialByte : Nat → Nat → Byte

/-- Whether `FIXED_ID` is present at a read no script fixes (R43). -/
opaque Config.freeFixedIdPresent : Nat → Bool

/-- The length of `FIXED_ID` less one (1 to 8 bytes) at a read no script fixes (R40, R43). -/
opaque Config.freeFixedIdLenLess : Nat → Fin 8

/-- The bytes of `FIXED_ID` at a read no script fixes (R43). -/
opaque Config.freeFixedIdByte : Nat → Nat → Byte

/-- The transceiver's answer to `X_RESET` at a read no script fixes (R46). -/
opaque Config.freeResetOk : Nat → Bool

/-- The five bytes INIT draws when `SERIAL` and `FIXED_ID` are both absent (R231 (d), C5). -/
opaque Config.freeTxa : Nat → Addr

end Sys2Proof
end

