-- ==== Sys2Proof/Machine/State.lean ====
section
/-! DEFINITION. The state of the link block (spec 10_state.md R20 to R50, 20_memory.md R60 to R65),
its ports as plain data (R40 to R47), the ways a step can stop (60_exceptions.md R272), and the
state after power-on reset (R49, 70_reset_and_hazards.md R300). -/

namespace Sys2Proof.Machine

/-- A register of the block: R22 gives every register the state *unwritten*, in which it holds no
value, beside the values it can hold. -/
inductive Reg (α : Type) where
  /-- No operation has written the register since power-on (R22). -/
  | unwritten
  /-- The register holds `v`. -/
  | written (v : α)
deriving DecidableEq, Repr

/-- Byte-indexed storage (R60 to R62): the written bytes as (index, byte) cells, indices strictly
rising. An index that is not listed is unwritten: it reads as no value (R22, R61, R62). -/
abbrev Memory := List Host.Cell

/-- Indices strictly rise and all lie at or above `k`. -/
def Memory.wfFrom (k : Nat) : Memory → Bool
  | [] => true
  | c :: m => decide (k ≤ c.1) && Memory.wfFrom (c.1 + 1) m

/-- The canonical form of a storage space: indices strictly rising. An unlisted index reads as no
value, so no cell equals it. -/
def Memory.wf (m : Memory) : Bool := Memory.wfFrom 0 m

/-- `PHASE` (R28): 0 = Bind, 1 = Data. -/
inductive Phase where
  | bind
  | data
deriving DecidableEq, Repr

/-- The registers of R20 by name, as the fault of R272 names them. -/
inductive RegName where
  | laddr (index : Nat)
  | alen
  | seed
  | crcen
  | pid
  | txa
  | phase
  | bcnt
  | armed
  | aflags
  | lsign
  | txpwr
  | run
  | pkt (index : Nat)
  | plen
  | frame (index : Nat)
  | flen
deriving DecidableEq, Repr

/-- Output events (R44), each a transaction with a collaborator. -/
inductive Event where
  /-- The power/mode bits of the configure operation. -/
  | xwCfg (b : Byte)
  /-- The transceiver's static address field: five pattern bytes. -/
  | xwTxaddr (p : List Byte)
  /-- A frame handed over for transmission in index order, no acknowledgment asked (R45). -/
  | xwPayload (f : List Byte)
  /-- The output power level. -/
  | xSetpower (p : Byte)
  /-- The fixed bring-up sequence, one opaque event (R290). -/
  | xBringup
  /-- The transceiver reset; its answer is an input (R46). -/
  | xReset
  /-- The bind-status value. -/
  | bindstat (v : Int)
  /-- The periodic driver is registered, first tick after delay `d`. -/
  | schedStart (d : Nat)
  /-- The periodic driver is stopped. -/
  | schedStop
deriving DecidableEq, Repr

/-- The inputs the environment presents at the ports of R40, as plain data. A script is what
successive reads of the port get; its last value is held; an empty script makes every read a free
value. `txa` is the `.txa` directive of R127, and `reads` counts port reads for the free values. -/
structure Env where
  chan : Vector (List Word) 10
  power : List Byte
  serial : List (Option (List Byte))
  fixedId : List (Option (List Byte))
  resetOk : List Bool
  txa : Option Addr
  reads : Nat
deriving DecidableEq, Repr

/-- Every port free: no script, no directive. -/
def Env.free : Env where
  chan := #v[[], [], [], [], [], [], [], [], [], []]
  power := []
  serial := []
  fixedId := []
  resetOk := []
  txa := none
  reads := 0

/-- The state: the configuration record the step takes as an argument (R5), the registers and
buffers of R20, and the ports. -/
structure State where
  /-- `CFG` (R5): immutable, written by no operation. -/
  cfg : Cfg
  /-- `LADDR[0..4]` (R23). -/
  laddr : Memory
  /-- `ALEN` (R23). -/
  alen : Reg (BitVec 3)
  /-- `SEED` (R24). -/
  seed : Reg Half
  /-- `CRCEN` (R25). -/
  crcen : Reg Bool
  /-- `PID` (R26). -/
  pid : BitVec 2
  /-- `TXA[0..4]` (R27), written only whole. -/
  txa : Reg Addr
  /-- `PHASE` (R28). -/
  phase : Reg Phase
  /-- `BCNT` (R29). -/
  bcnt : Reg Half
  /-- `ARMED` (R30). -/
  armed : Reg Bool
  /-- `AFLAGS` (R30, R112). -/
  aflags : Reg Byte
  /-- `LSIGN` (R30). -/
  lsign : Reg Bool
  /-- `TXPWR` (R31). -/
  txpwr : Reg Byte
  /-- `RUN` (R32). -/
  run : Bool
  /-- `PKT[0..9]` (R34, R61). -/
  pkt : Memory
  /-- `PLEN` (R34, R61). -/
  plen : Reg (BitVec 4)
  /-- `FRAME[0..25]` (R35, R62). -/
  frame : Memory
  /-- `FLEN` (R35, R62). -/
  flen : Reg (BitVec 5)
  /-- The command port: bytes of the command stream not yet taken (R47, R90). -/
  cmdIn : List Byte
  /-- The response port: bytes sent so far, oldest first (R47, R96). -/
  resp : List Byte
  /-- The event trace, oldest first (R44, R75). -/
  events : List Event
  /-- The input ports (R40). -/
  env : Env
deriving DecidableEq, Repr

/-- How a step can stop with a fault. -/
inductive Fault where
  /-- `read_of_unwritten(<register>)`, the one fault of the spec's table R272, raised by any operation
  that reads a register nothing has written (R22, D20, U14; R170, R195, R214, R215; program P4 expects
  it). Safe: R22 calls it the choice that errs toward unprovable. -/
  | readOfUnwritten (r : RegName)
deriving DecidableEq, Repr

/-- How a step can stop with a refusal. -/
inductive Refusal where
  /-- An instruction this model gives no meaning; raised by no arm of `exec`. Safe. -/
  | notModelled (mnemonic : String)
  /-- `reserved_opcode` (R120, R272), raised by the decoder. Safe: it adds no behaviour (D23). -/
  | reservedOpcode
  /-- `malformed_operands` (R121, R272), raised by the decoder for a stream that ends inside a
  command and for CRC.UPD with `n` outside 1..8 (R130). Safe: it adds no behaviour (D23, D25). -/
  | malformedOperands
  /-- `tick_while_stopped` (R240 (e), R272), raised by TICK while `RUN = 0`. Safe (D21). -/
  | tickWhileStopped
deriving DecidableEq, Repr

/-- Power-on reset of a block with configuration `c` (R49, R300): `RUN = 0`, `PID = 0`, every
other register and both buffers unwritten, no event emitted. -/
def State.powerOn (c : Cfg) : State where
  cfg := c
  laddr := []
  alen := .unwritten
  seed := .unwritten
  crcen := .unwritten
  pid := 0
  txa := .unwritten
  phase := .unwritten
  bcnt := .unwritten
  armed := .unwritten
  aflags := .unwritten
  lsign := .unwritten
  txpwr := .unwritten
  run := false
  pkt := []
  plen := .unwritten
  frame := []
  flen := .unwritten
  cmdIn := []
  resp := []
  events := []
  env := Env.free

/-- The hardware right after power-on (R300). -/
def State.reset : State := State.powerOn Config.hardware

end Sys2Proof.Machine
end

