-- ==== Sys2Proof/Machine/Ops.lean ====
section
/-! DEFINITION. The shared operations over registers, storage, ports, events and responses (spec
00_scope.md R9 to R12, 10_state.md R22, R40 to R47, 30_encoding.md R96, 60_exceptions.md R272). -/

namespace Sys2Proof.Machine

/-- The outcome of a step of this machine. -/
abbrev Result := Host.Outcome State Fault Refusal

/-- The effect of an operation that reads registers: a value, or the fault of R22. -/
abbrev Eff (α : Type) := Except Fault α

/-- An operation completes with the state it leaves or faults and changes nothing (R12, R272). -/
def Eff.outcome : Eff State → Result
  | .ok s => .next s
  | .error f => .fault f

/-! ### Registers (R9, R22) -/

/-- Read a register: its value, or the fault `read_of_unwritten` under its name, as R22 and the table
R272 say. -/
def Reg.read {α : Type} (name : RegName) : Reg α → Eff α
  | .written v => .ok v
  | .unwritten => .error (.readOfUnwritten name)

/-! ### Storage (R10, R60 to R62, R70) -/

/-- The byte an index holds, or none where it is unwritten. -/
def Memory.read : Memory → Nat → Option Byte
  | [], _ => none
  | c :: m, a => if c.1 = a then some c.2 else Memory.read m a

/-- `MemWrite(SPACE + a, 1, b)`: one byte, the canonical form kept. -/
def Memory.write : Memory → Nat → Byte → Memory
  | [], a, b => [(a, b)]
  | c :: m, a, b =>
    if a < c.1 then (a, b) :: c :: m
    else if a = c.1 then (a, b) :: m
    else c :: Memory.write m a b

/-- `MemWrite(SPACE + a, n, v)`: consecutive bytes, the earlier byte at the lower index. -/
def Memory.writeFrom (m : Memory) (a : Nat) : List Byte → Memory
  | [] => m
  | b :: bs => Memory.writeFrom (m.write a b) (a + 1) bs

/-- A space that holds exactly `bs` from index 0. An encoder, LL.SEND and LL.SETADDR write every
byte below the new length and leave every byte at or above it unwritten (R22, R61, R62), so what
the space held before does not matter. -/
def Memory.ofBytes (bs : List Byte) : Memory := Memory.writeFrom [] 0 bs

/-- Read one byte of a space as a register: its value, or the fault of R22 and R272. -/
def Memory.readReg (m : Memory) (name : Nat → RegName) (i : Nat) : Eff Byte :=
  match m.read i with
  | some b => .ok b
  | none => .error (.readOfUnwritten (name i))

/-! ### Input ports (R11, R40 to R43, R46; log entries 4, 5) -/

/-- What one read of a scripted port gets. -/
def scriptValue {α : Type} (free : α) : List α → α
  | [] => free
  | v :: _ => v

/-- The script after one read: the last value is held. -/
def scriptNext {α : Type} : List α → List α
  | [] => []
  | [v] => [v]
  | _ :: v :: vs => v :: vs

/-- `PortRead(CHAN, i)` (R41). -/
def Env.readChan (i : Fin 10) (e : Env) : Word × Env :=
  (scriptValue (Config.freeChan e.reads) e.chan[i],
   { e with chan := e.chan.set i (scriptNext e.chan[i]), reads := e.reads + 1 })

/-- `PortRead(POWER)` (R42). -/
def Env.readPower (e : Env) : Byte × Env :=
  (scriptValue (Config.freePower e.reads) e.power,
   { e with power := scriptNext e.power, reads := e.reads + 1 })

/-- The free value of `SERIAL`: absent, or `len` = `CFG.SERIAL_LEN` bytes (R40, R43). -/
def freeSerial (len count : Nat) : Option (List Byte) :=
  if Config.freeSerialPresent count then
    some ((List.range len).map (Config.freeSerialByte count)) else none

/-- The free value of `FIXED_ID`: absent, or 1 to 8 bytes (R40, R43). -/
def freeFixedId (count : Nat) : Option (List Byte) :=
  if Config.freeFixedIdPresent count then
    some ((List.range ((Config.freeFixedIdLenLess count).val + 1)).map
      (Config.freeFixedIdByte count)) else none

/-- `PortRead(SERIAL)` (R43). -/
def Env.readSerial (c : Cfg) (e : Env) : Option (List Byte) × Env :=
  (scriptValue (freeSerial c.serialLen e.reads) e.serial,
   { e with serial := scriptNext e.serial, reads := e.reads + 1 })

/-- `PortRead(FIXED_ID)` (R43). -/
def Env.readFixedId (e : Env) : Option (List Byte) × Env :=
  (scriptValue (freeFixedId e.reads) e.fixedId,
   { e with fixedId := scriptNext e.fixedId, reads := e.reads + 1 })

/-- The answer of `X_RESET`, a free boolean input of DEINIT (R46). -/
def Env.readResetOk (e : Env) : Bool × Env :=
  (scriptValue (Config.freeResetOk e.reads) e.resetOk,
   { e with resetOk := scriptNext e.resetOk, reads := e.reads + 1 })

/-- `CURRENT_ID` (R48): the configured fixed id, if any. The framework's question, no operation. -/
def Env.currentId (e : Env) : Option (List Byte) := e.readFixedId.1

/-- The state with the ports as a read left them. -/
def State.withEnv (s : State) (e : Env) : State := { s with env := e }

/-! ### Output (R44, R75, R96) -/

/-- `Emit(E)`: append one event to the trace (R11, R75). -/
def State.emit (s : State) (e : Event) : State := { s with events := s.events ++ [e] }

/-- Send response bytes (R96). -/
def State.respond (s : State) (bs : List Byte) : State := { s with resp := s.resp ++ bs }

/-- A 16-bit number as response bytes, high byte first (R68, R96). -/
def halfBytes (h : Half) : List Byte := [hiByte h, loByte h]

end Sys2Proof.Machine
end

