-- ==== Sys2Proof/Machine/Operands.lean ====
section
/-! DEFINITION. How operations read their operands beyond the decoder's assembly: the length clamp
(spec 42_framer.md R163), the payload truncation (41_scrambler.md R151) and the channel clamp
(43_scaler_arming.md R191). -/

namespace Sys2Proof.Machine

/-- `clamp(v, lo, hi)` on integers (R7). -/
def clampInt (v lo hi : Int) : Int := min (max v lo) hi

/-- `L = clamp(len, 4, 5)` (R163): never rejected. -/
def clampLen (len : Byte) : Nat := min (max len.toNat 4) 5

/-- The address bytes in use: `addr[0..L-1]` (R163, D12). -/
def usedAddr (len : Byte) (addr : Addr) : List Byte := addr.toList.take (clampLen len)

/-- The payload cut to the key table's 15 entries (R151, R171). -/
def truncated (m : List Byte) : List Byte := m.take Config.keyLen

/-- `x = clamp(v, -CH_MAX, +CH_MAX)`, compared on the full 32-bit value (R191). -/
def clampChan (c : Cfg) (v : Word) : Int := clampInt v.toInt (-(c.chMax : Int)) c.chMax

end Sys2Proof.Machine
end

