-- ==== Sys2Proof/Machine/Flags.lean ====
section
/-! DEFINITION. Every flag computation of the block (spec 10_state.md R36): the CRC switch, the arm
channel's sign and its edges, and the mode-flags byte. -/

namespace Sys2Proof.Machine

/-- `CRCEN`: the flags byte has the CRC-enable bit (R25, R161). -/
def crcEnable (c : Cfg) (flags : Byte) : Bool := flags &&& c.crcEnMask != 0

/-- The power/mode bits handed to the transceiver (R114, R161). -/
def modeBits (c : Cfg) (flags : Byte) : Byte := flags &&& c.modeMask

/-- The sign predicate `v > 0` on the raw value (R195 (a)). -/
def positive (v : Word) : Bool := decide (0 < v.toInt)

/-- `AFLAGS` after an edge to sign `sgn`: XOR with the ARM mask on a rising edge, with the DISARM
mask on a falling edge (R195, R196). -/
def edgeFlags (c : Cfg) (sgn : Bool) (aflags : Byte) : Byte :=
  if sgn then aflags ^^^ c.armBit else aflags ^^^ c.disarmBit

/-- One auxiliary bit: `mask` when the raw channel value is above `AUX_THRESH` (R217). -/
def auxBit (c : Cfg) (v : Word) (mask : Byte) : Byte :=
  if c.auxThresh < v.toInt then mask else 0

/-- The mode-flags byte (R113, R217). -/
def modeFlags (c : Cfg) (flip led headless rth : Word) : Byte :=
  c.expertBit ||| auxBit c flip c.flipBit ||| auxBit c led c.ledBit |||
    auxBit c headless c.headlessBit ||| auxBit c rth c.rthBit

end Sys2Proof.Machine
end

