-- ==== Sys2Proof/Machine/Crc.lean ====
section
/-! DEFINITION. The CRC-16 generator: CRC.UPD, CRC.SEED, CRC.MSG (spec 40_crc.md R130 to R134). -/

namespace Sys2Proof.Machine

/-- One shift step of the update: the polynomial is XORed in when the bit shifted out is 1 (R130). -/
def crcShift (c : Half) : Half := if c.msb then (c <<< 1) ^^^ Config.crcPoly else c <<< 1

/-- `n` shift steps. -/
def crcShifts : Nat → Half → Half
  | 0, c => c
  | n + 1, c => crcShifts n (crcShift c)

/-- `upd(c, a, n)` (R130): the byte enters bits 15:8 whole, then `n` shift steps. -/
def crcUpdate (c : Half) (a : Byte) (n : Nat) : Half :=
  crcShifts n (c ^^^ (a.zeroExtend 16 <<< 8))

/-- Fold bytes with eight shifts each, in list order. -/
def crcFold (c : Half) (bs : List Byte) : Half := bs.foldl (fun c b => crcUpdate c b 8) c

/-- `seed(addr, len)` (R131): the used address bytes, index `L-1` first, from 0xFFFF. -/
def crcSeedOf (len : Byte) (addr : Addr) : Half := crcFold Config.crcInit (usedAddr len addr).reverse

/-- `crcmsg(s, m)` (R132): eight shifts for every byte but the last, one for the last. -/
def crcMessage (s : Half) : List Byte → Half
  | [] => s
  | [b] => crcUpdate s b 1
  | b :: b' :: bs => crcMessage (crcUpdate s b 8) (b' :: bs)

/-- One step of the bit-serial generator of R134. -/
def crcSerialStep (c : Half) (b : Bool) : Half :=
  if c.msb ^^ b then (c <<< 1) ^^^ Config.crcPoly else c <<< 1

/-- The bit-serial generator over a bit sequence, earliest bit first (R134). -/
def crcSerial (c : Half) (bits : List Bool) : Half := bits.foldl crcSerialStep c

/-- CRC.UPD (R130). A shift count outside 1..8 is refused, by the decoder and here (R121). -/
def execCrcUpd (crc : Half) (a n : Byte) (s : State) : Result :=
  if shiftCountOk n then .next (s.respond (halfBytes (crcUpdate crc a n.toNat)))
  else .refused .malformedOperands

/-- CRC.SEED (R131). -/
def execCrcSeed (len : Byte) (addr : Addr) (s : State) : Result :=
  .next (s.respond (halfBytes (crcSeedOf len addr)))

/-- CRC.MSG (R132). -/
def execCrcMsg (seed : Half) (m : List Byte) (s : State) : Result :=
  .next (s.respond (halfBytes (crcMessage seed m)))

end Sys2Proof.Machine
end

