-- ==== Sys2Proof/Machine/Scrambler.lean ====
section
/-! DEFINITION. The byte scrambler: SCR (spec 41_scrambler.md R150 to R152). -/

namespace Sys2Proof.Machine

/-- `scr(m)` (R150, R151): byte `i` XOR `KEY[i]`, the payload cut to 15 bytes first. -/
def scramble (c : Cfg) (m : List Byte) : List Byte :=
  List.zipWith (· ^^^ ·) (truncated m) c.key.toList

/-- SCR (R150). -/
def execScr (m : List Byte) (s : State) : Result := .next (s.respond (scramble s.cfg m))

end Sys2Proof.Machine
end

