-- ==== Sys2Proof/Machine/Framer.lean ====
section
/-! DEFINITION. The packet framer with address routing: LL.CFG, LL.SETADDR, LL.SEND (spec
42_framer.md R160 to R176) and the wire encoding of the frame (30_encoding.md R100 to R107). -/

namespace Sys2Proof.Machine

/-! ### LL.CFG and LL.SETADDR -/

/-- `llcfg(flags)` (R161). -/
def State.configure (s : State) (flags : Byte) : State :=
  { s with crcen := .written (crcEnable s.cfg flags) }.emit (.xwCfg (modeBits s.cfg flags))

/-- The preamble byte: selected by bit 7 of the last address byte in use (R165). -/
def preambleByte (c : Cfg) (len : Byte) (addr : Addr) : Byte :=
  if ((usedAddr len addr).getLastD 0).msb then c.preIfSet else c.preIfClear

/-- `setaddr(addr, len)` (R162): event, then `SEED`, `LADDR` and `ALEN` together. -/
def State.setAddress (s : State) (len : Byte) (addr : Addr) : State :=
  let p := preambleByte s.cfg len addr
  { s.emit (.xwTxaddr [p, p, p, p, p]) with
    seed := .written (crcSeedOf len addr)
    laddr := Memory.ofBytes (usedAddr len addr)
    alen := .written (BitVec.ofNat 3 (clampLen len)) }

/-! ### The frame (R100 to R107) -/

/-- The bits of a byte, most significant first (R66, R105). -/
def byteBits (b : Byte) : List Bool :=
  [b.getLsbD 7, b.getLsbD 6, b.getLsbD 5, b.getLsbD 4,
   b.getLsbD 3, b.getLsbD 2, b.getLsbD 1, b.getLsbD 0]

/-- The byte of eight bits, the earliest in bit 7 (R105). -/
def byteOfBits (b7 b6 b5 b4 b3 b2 b1 b0 : Bool) : Byte :=
  BitVec.ofNat 8 (128 * b7.toNat + 64 * b6.toNat + 32 * b5.toNat + 16 * b4.toNat +
    8 * b3.toNat + 4 * b2.toNat + 2 * b1.toNat + b0.toNat)

/-- Cut a bit sequence into bytes; fewer than eight bits at the end are padding and dropped. -/
def packBits : List Bool → List Byte
  | b7 :: b6 :: b5 :: b4 :: b3 :: b2 :: b1 :: b0 :: bs =>
    byteOfBits b7 b6 b5 b4 b3 b2 b1 b0 :: packBits bs
  | _ => []

/-- The seven padding bits (R107). -/
def paddingBits : List Bool := List.replicate 7 false

/-- The tail of a frame (R105): filler bit, scrambled payload and the bytes after it, one bit
sequence, zero padding, cut into bytes. -/
def tailBytes (noack : Bool) (content : List Byte) : List Byte :=
  packBits (noack :: content.flatMap byteBits ++ paddingBits)

/-- The control byte (R103): length, masked to 6 bits, over packet-id. -/
def controlByte (n : Nat) (pid : BitVec 2) : Byte :=
  (BitVec.ofNat 8 (n &&& 0x3F) <<< 2) ||| pid.zeroExtend 8

/-- The CRC message of a frame (R173): control byte and tail, before any CRC bit is merged in. -/
def crcMessageBytes (c : Cfg) (pid : BitVec 2) (m : List Byte) : List Byte :=
  controlByte (truncated m).length pid :: tailBytes c.noackBit (scramble c m)

/-- The CRC of a frame (R173). -/
def frameCrc (c : Cfg) (pid : BitVec 2) (m : List Byte) (seed : Half) : Half :=
  crcMessage seed (crcMessageBytes c pid m)

/-- The bytes of the CRC field: none, or the CRC high byte first (R106). -/
def crcField (c : Cfg) (pid : BitVec 2) (m : List Byte) : Option Half → List Byte
  | none => []
  | some seed => halfBytes (frameCrc c pid m seed)

/-- The physical frame (R100): address bytes in transmitted order, two guard bytes, control byte,
tail; `seed` is none when the CRC is off. -/
def frameBytes (c : Cfg) (reversedAddr : List Byte) (guard : Byte) (pid : BitVec 2)
    (m : List Byte) (seed : Option Half) : List Byte :=
  reversedAddr ++ [guard, guard] ++ [controlByte (truncated m).length pid] ++
    tailBytes c.noackBit (scramble c m ++ crcField c pid m seed)

/-! ### LL.SEND -/

/-- `LADDR[n-1]` down to `LADDR[0]`: the address field in frame order (R101, R170). -/
def readAddrDown (laddr : Memory) : Nat → Eff (List Byte)
  | 0 => .ok []
  | n + 1 => do
    let b ← laddr.readReg .laddr n
    let bs ← readAddrDown laddr n
    return b :: bs

/-- `SEED`, read only when the CRC is on (R170). -/
def readSeed (s : State) (crcen : Bool) : Eff (Option Half) :=
  if crcen then do return some (← s.seed.read .seed) else .ok none

/-- The frame LL.SEND builds (R170), its registers read in the pseudocode's order. -/
def buildFrame (m : List Byte) (s : State) : Eff (List Byte) := do
  let alen ← s.alen.read .alen
  let crcen ← s.crcen.read .crcen
  let addr ← readAddrDown s.laddr alen.toNat
  let guard ← s.laddr.readReg .laddr 0
  let seed ← readSeed s crcen
  return frameBytes s.cfg addr guard s.pid m seed

/-- Store a built frame, advance the packet-id and submit twice (R170, R174, R175). -/
def State.submit (s : State) (f : List Byte) : State :=
  let t := { s with
    frame := Memory.ofBytes f
    flen := .written (BitVec.ofNat 5 f.length)
    pid := s.pid + 1 }
  (t.emit (.xwPayload f)).emit (.xwPayload f)

/-- `send(m)` (R170). -/
def send (m : List Byte) (s : State) : Eff State := do
  let f ← buildFrame m s
  return s.submit f

/-- LL.CFG (R161). -/
def execLlCfg (flags : Byte) (s : State) : Result := .next (s.configure flags)

/-- LL.SETADDR (R162). -/
def execLlSetaddr (len : Byte) (addr : Addr) (s : State) : Result := .next (s.setAddress len addr)

/-- LL.SEND (R170). -/
def execLlSend (m : List Byte) (s : State) : Result := (send m s).outcome

/-! ### The tail as byte formulas (R105)

R105 gives the tail twice, as a bit sequence and as byte formulas. The model runs the first; the
second is kept so that a statement can compare the two. -/

/-- The formulas of R105 after `T[0]`: each byte takes bit 0 of one content byte as its bit 7 and
the upper seven bits of the next below it; the last takes padding. -/
def tailFormula (carry : Byte) : List Byte → List Byte
  | [] => [carry]
  | b :: bs => (carry ||| (b >>> 1)) :: tailFormula (b <<< 7) bs

/-- `T` by the formulas of R105, `content` the scrambled payload and then the CRC bytes. -/
def tailByFormula (noack : Bool) (content : List Byte) : List Byte :=
  tailFormula (if noack then 0x80 else 0x00) content

end Sys2Proof.Machine
end

