-- ==== Sys2Proof/Machine/Scaler.lean ====
section
/-! DEFINITION. The channel scaler and the arming tracker: SCALE, ARM (spec 43_scaler_arming.md
R190 to R198). -/

namespace Sys2Proof.Machine

/-- `scale(v, dmin, dmax)` on integers (R190): multiplication first, then division truncating
toward zero (R8). -/
def scaleInt (c : Cfg) (v : Word) (dmin dmax : Byte) : Int :=
  let inMin : Int := -(c.chMax : Int)
  let inRange : Int := (c.chMax : Int) - inMin
  let dRange : Int := (dmax.toNat : Int) - dmin.toNat
  (dRange * (clampChan c v - inMin)).tdiv inRange + dmin.toNat

/-- The scaled byte (R190); R193 says it needs no reduction. -/
def scaleByte (c : Cfg) (v : Word) (dmin dmax : Byte) : Byte :=
  BitVec.ofInt 8 (scaleInt c v dmin dmax)

/-- `scale` in 32-bit two's-complement words (R192), kept so that a statement can compare it with
`scaleInt`: the word bounds, product, truncating signed quotient and sum. -/
def scaleWord (c : Cfg) (v : Word) (dmin dmax : Byte) : Word :=
  let inMax : Word := BitVec.ofNat 32 c.chMax
  let inMin : Word := -inMax
  let x : Word := if v.slt inMin then inMin else if inMax.slt v then inMax else v
  ((dmax.zeroExtend 32 - dmin.zeroExtend 32) * (x - inMin)).sdiv (inMax - inMin) +
    dmin.zeroExtend 32

/-- The writes of an edge to sign `sgn`, `aflags` the flags before it (R195). -/
def State.armEdge (s : State) (sgn : Bool) (aflags : Byte) : State :=
  { s with
    lsign := .written sgn
    armed := .written sgn
    aflags := .written (edgeFlags s.cfg sgn aflags) }

/-- `arm(v)` (R195): on a change of sign, `LSIGN`, `ARMED` and `AFLAGS`; otherwise nothing. -/
def armTrack (v : Word) (s : State) : Eff State := do
  let lsign ← s.lsign.read .lsign
  let sgn := positive v
  if sgn = lsign then return s
  else do
    let aflags ← s.aflags.read .aflags
    return s.armEdge sgn aflags

/-- SCALE (R190). -/
def execScale (v : Word) (dmin dmax : Byte) (s : State) : Result :=
  .next (s.respond [scaleByte s.cfg v dmin dmax])

/-- ARM (R195). -/
def execArm (v : Word) (s : State) : Result := (armTrack v s).outcome

end Sys2Proof.Machine
end

