-- ==== Sys2Proof/Machine/Encoder.lean ====
section
/-! DEFINITION. The checksum accumulator and the packet encoders: CSUM, ENC.BIND, ENC.DATA (spec
44_encoder_checksum.md R210 to R218; layouts 30_encoding.md R110 to R113). -/

namespace Sys2Proof.Machine

/-- `csum(m)` (R210): the 8-bit accumulator over the bytes. -/
def checksum (m : List Byte) : Byte := m.foldl (· + ·) 0

/-- The bind packet that advertises `a` (R110, R214); the checksum covers the address only (R211). -/
def bindPacket (a : Addr) : List Byte := Config.bindHdr ++ a.toList ++ [checksum a.toList]

/-- Store a packet and its length (R61). -/
def State.storePacket (s : State) (p : List Byte) : State :=
  { s with pkt := Memory.ofBytes p, plen := .written (BitVec.ofNat 4 p.length) }

/-- `encbind()` (R214): the packet, and the state that holds it. -/
def encodeBind (s : State) : Eff (List Byte × State) := do
  let a ← s.txa.read .txa
  return (bindPacket a, s.storePacket (bindPacket a))

/-- The nine channel values one ENC.DATA reads, by role (R215, R217). -/
structure Channels where
  arm : Word
  thr : Word
  rud : Word
  ail : Word
  ele : Word
  flip : Word
  led : Word
  headless : Word
  rth : Word
deriving DecidableEq, Repr

/-- The nine reads of the CHAN port, in the pseudocode's order (R215, R217); one read a role, also
where two roles name one index (R41). -/
def Env.readChannels (c : Cfg) (e : Env) : Channels × Env :=
  let arm := e.readChan c.chArm
  let thr := arm.2.readChan c.chThr
  let rud := thr.2.readChan c.chRud
  let ail := rud.2.readChan c.chAil
  let ele := ail.2.readChan c.chEle
  let flip := ele.2.readChan c.chFlip
  let led := flip.2.readChan c.chLed
  let headless := led.2.readChan c.chHeadless
  let rth := headless.2.readChan c.chRth
  (⟨arm.1, thr.1, rud.1, ail.1, ele.1, flip.1, led.1, headless.1, rth.1⟩, rth.2)

/-- The nine bytes of the data packet before its checksum (R111, R215, R216). -/
def dataBody (c : Cfg) (ch : Channels) (aflags : Byte) : List Byte :=
  [scaleByte c ch.thr c.thrMin c.thrMax,
   scaleByte c ch.rud c.rudMin c.rudMax,
   scaleByte c ch.ail c.ailMin c.ailMax,
   scaleByte c ch.ele c.eleMin c.eleMax,
   c.trim0,
   c.trim1,
   aflags,
   modeFlags c ch.flip ch.led ch.headless ch.rth,
   0x00]

/-- The data packet (R111): body, then the checksum of the body (R211). -/
def dataPacket (c : Cfg) (ch : Channels) (aflags : Byte) : List Byte :=
  dataBody c ch aflags ++ [checksum (dataBody c ch aflags)]

/-- `encdata()` (R215): the arming tracker first, then the packet with `AFLAGS` after it. -/
def encodeData (s : State) : Eff (List Byte × State) := do
  let ch := s.env.readChannels s.cfg
  let t ← armTrack ch.1.arm (s.withEnv ch.2)
  let aflags ← t.aflags.read .aflags
  let p := dataPacket s.cfg ch.1 aflags
  return (p, t.storePacket p)

/-- An encoder operation's result is its packet (R96, R214, R215). -/
def respondPacket (r : Eff (List Byte × State)) : Eff State := do
  let enc ← r
  return enc.2.respond enc.1

/-- CSUM (R210). -/
def execCsum (m : List Byte) (s : State) : Result := .next (s.respond [checksum m])

/-- ENC.BIND (R214). -/
def execEncBind (s : State) : Result := (respondPacket (encodeBind s)).outcome

/-- ENC.DATA (R215). -/
def execEncData (s : State) : Result := (respondPacket (encodeData s)).outcome

end Sys2Proof.Machine
end

