-- ==== Sys2Proof/Machine/Session.lean ====
section
/-! DEFINITION. Session initialisation, the tick and stop: INIT, TICK, DEINIT, and the address
derivation (spec 45_session_fsm.md R230 to R251). -/

namespace Sys2Proof.Machine

/-! ### Address derivation (R231) -/

/-- Churn the mixer with bytes in index order. -/
def mixBytes (w : Word) (bs : List Byte) : Word := bs.foldl Config.mix w

/-- The mixer's state after the identifiers and the decorrelating zero bytes (R231). -/
def mixedState (c : Cfg) (serial fixedId : Option (List Byte)) : Word :=
  mixBytes (mixBytes (mixBytes c.mixSeed (serial.getD [])) (fixedId.getD []))
    (List.replicate c.nZero 0)

/-- The five bytes of a mixer state: four from the state, one more churn, one more byte (R231). -/
def addrOfState (w : Word) : Addr :=
  ⟨w.extractLsb' 0 8, w.extractLsb' 8 8, w.extractLsb' 16 8, w.extractLsb' 24 8,
   (Config.mix w 0).extractLsb' 0 8⟩

/-- `derive(serial, fixedid)` (R231); `draw` is the free draw when both are absent (case (d)). -/
def derive (c : Cfg) (draw : Addr) (serial fixedId : Option (List Byte)) : Addr :=
  if serial.isNone && fixedId.isNone then draw else addrOfState (mixedState c serial fixedId)

/-- INIT's address: both ports read once (R43), DERIVE, or the `.txa` directive's value at this one
INIT (R127). -/
def deriveTxa (c : Cfg) (e : Env) : Addr × Env :=
  let serial := e.readSerial c
  let fixedId := serial.2.readFixedId
  (e.txa.getD (derive c (Config.freeTxa e.reads) serial.1 fixedId.1),
   { fixedId.2 with txa := none })

/-! ### INIT (R236) -/

/-- Stop the periodic driver: the first effect of INIT and of DEINIT (R236, R250, R311). -/
def State.stopDriver (s : State) : State := { s.emit .schedStop with run := false }

/-- Set a power level: `TXPWR` and the event (R236, R243). -/
def State.setPower (s : State) (p : Byte) : State :=
  { s with txpwr := .written p }.emit (.xSetpower p)

/-- A new session's address, phase, counters and arm state (R236). -/
def State.newSession (s : State) (txa : Addr) : State :=
  { s with
    txa := .written txa
    phase := .written .bind
    bcnt := .written (BitVec.ofNat 16 s.cfg.bindCount)
    pid := 0
    armed := .written false
    aflags := .written 0
    lsign := .written false }

/-- Start the periodic driver: the last effect of INIT (R236, R311). -/
def State.startDriver (s : State) : State :=
  { s.emit (.schedStart s.cfg.initDelay) with run := true }

/-- The length operand INIT and the transition give to `setaddr`: 5 (R236, R245). -/
def fullLen : Byte := 5

/-- `init()` (R236), which reads no register. -/
def State.init (s : State) : State :=
  let s := s.stopDriver
  let txa := deriveTxa s.cfg s.env
  let s := ((s.withEnv txa.2).newSession txa.1).emit .xBringup
  let power := s.env.readPower
  let s := (s.withEnv power.2).setPower power.1
  let s := s.configure s.cfg.initFlags
  let s := s.setAddress fullLen s.cfg.bindAddr
  let s := s.emit (.bindstat s.cfg.bindEst)
  s.startDriver

/-! ### TICK (R240 to R245) -/

/-- The Bind-to-Data transition (R245). -/
def State.toData (s : State) (txa : Addr) : State :=
  { s.setAddress fullLen txa with phase := .written .data }.emit (.bindstat 0)

/-- The countdown of a Bind-phase tick, `n` the count before it (R241). -/
def State.countDown (s : State) (n : Half) : State := { s with bcnt := .written (n - 1) }

/-- `bindtick()` (R241): encode, send, count down, and switch when the count reaches 0. -/
def bindTick (s : State) : Eff State := do
  let enc ← encodeBind s
  let s ← send enc.1 enc.2
  let n ← s.bcnt.read .bcnt
  let s := s.countDown n
  if n - 1 = 0 then do
    let txa ← s.txa.read .txa
    return s.toData txa
  else return s

/-- `datatick()` (R242). -/
def dataTick (s : State) : Eff State := do
  let enc ← encodeData s
  send enc.1 enc.2

/-- The phase's part of a tick (R240). -/
def phaseTick : Phase → State → Eff State
  | .bind, s => bindTick s
  | .data, s => dataTick s

/-- Apply the polled level when it differs from the last one applied (R243). -/
def applyPower (p : Byte) (s : State) : Eff State := do
  let last ← s.txpwr.read .txpwr
  if p = last then return s else return s.setPower p

/-- `tick()` after admission (R240): power polled, the phase's frame sent, power applied, the
period returned (R244). -/
def tickBody (s : State) : Eff State := do
  let power := s.env.readPower
  let s := s.withEnv power.2
  let phase ← s.phase.read .phase
  let s ← phaseTick phase s
  let s ← applyPower power.1 s
  return s.respond (halfBytes (BitVec.ofNat 16 s.cfg.period))

/-! ### DEINIT (R250) -/

/-- The response byte of DEINIT (R96, R271). -/
def okByte (ok : Bool) : Byte := if ok then 0x01 else 0x00

/-- `deinit()` (R250): stop, reset the transceiver, report its answer. -/
def State.deinit (s : State) : State :=
  let s := s.stopDriver.emit .xReset
  let ok := s.env.readResetOk
  (s.withEnv ok.2).respond [okByte ok.1]

/-! ### The meanings -/

/-- INIT (R236). -/
def execInit (s : State) : Result := .next s.init

/-- TICK (R240): admitted only while `RUN = 1`; refused before any register is read otherwise
(R240 (e), R272). -/
def execTick (s : State) : Result :=
  if s.run then (tickBody s).outcome else .refused .tickWhileStopped

/-- DEINIT (R250). -/
def execDeinit (s : State) : Result := .next s.deinit

end Sys2Proof.Machine
end

