-- ==== Sys2Proof/Machine/Dispatch.lean ====
section
/-! DEFINITION. The dispatch: one arm per operation of the opcode table (spec 30_encoding.md R92). -/

namespace Sys2Proof.Machine

def exec (i : Instr) (s : State) : Host.Outcome State Fault Refusal :=
  match i with
  | .init => Sys2Proof.Machine.execInit s
  | .tick => Sys2Proof.Machine.execTick s
  | .deinit => Sys2Proof.Machine.execDeinit s
  | .crcUpd crc a n => Sys2Proof.Machine.execCrcUpd crc a n s
  | .crcSeed len addr => Sys2Proof.Machine.execCrcSeed len addr s
  | .crcMsg seed m => Sys2Proof.Machine.execCrcMsg seed m s
  | .scr m => Sys2Proof.Machine.execScr m s
  | .llCfg flags => Sys2Proof.Machine.execLlCfg flags s
  | .llSetaddr len addr => Sys2Proof.Machine.execLlSetaddr len addr s
  | .llSend m => Sys2Proof.Machine.execLlSend m s
  | .scale v dmin dmax => Sys2Proof.Machine.execScale v dmin dmax s
  | .arm v => Sys2Proof.Machine.execArm v s
  | .csum m => Sys2Proof.Machine.execCsum m s
  | .encBind => Sys2Proof.Machine.execEncBind s
  | .encData => Sys2Proof.Machine.execEncData s

end Sys2Proof.Machine
end

