-- ==== Sys2Proof/Machine/Step.lean ====
section
/-! DEFINITION. One step: take one command off the command port and run it to completion (spec
10_state.md R47, 20_memory.md R71, 30_encoding.md R90). -/

namespace Sys2Proof.Machine

/-- With no byte pending the block is idle and holds its registers (R294, R300). Otherwise the
command at the head of the stream is decoded, its bytes are taken, and it runs; a reserved opcode
and a malformed command are refused (R120, R121). -/
def step (s : State) : Host.Outcome State Fault Refusal :=
  match decode s.cmdIn with
  | .ok (i, rest) => exec i { s with cmdIn := rest }
  | .error .noCommand => .next s
  | .error .reservedOpcode => .refused .reservedOpcode
  | .error .malformedOperands => .refused .malformedOperands

/-- The command whose bits are `w` arrives at the head of the command stream, so that the next step
takes and runs exactly it. -/
def State.withFetchWord (s : State) (nbits w : Nat) : State :=
  { s with cmdIn := tableCommand nbits w ++ s.cmdIn }

end Sys2Proof.Machine
end

