-- ==== Sys2Proof/Machine/Assembler.lean ====
section
/-! DEFINITION. The assembler of program listings on tokens, its pseudo-instructions and the
environment directives (spec 30_encoding.md R125 to R127). Reading characters into tokens is left
out. -/

namespace Sys2Proof.Machine

/-- One operand of a line: a number, or a byte list in square brackets (R125). -/
inductive AsmOperand where
  | num (v : Int)
  | bytes (bs : List Byte)
deriving DecidableEq, Repr

/-- What the environment presents from then on (R127). -/
inductive Directive where
  /-- `.chan i = v` -/
  | chan (i : Fin 10) (v : Word)
  /-- `.power = p` -/
  | power (p : Byte)
  /-- `.serial = [bytes]` or `none` -/
  | serial (v : Option (List Byte))
  /-- `.fixedid = [bytes]` or `none` -/
  | fixedId (v : Option (List Byte))
  /-- `.txa = [5 bytes]`, for the next INIT -/
  | txa (a : Addr)
  /-- `.resetok = 0` or `1` -/
  | resetOk (ok : Bool)
deriving DecidableEq, Repr

/-- One line of a listing: a command with its mnemonic as R92 or R126 spells it, or a directive. -/
inductive AsmLine where
  | command (mnemonic : String) (operands : List AsmOperand)
  | directive (d : Directive)
deriving DecidableEq, Repr

/-- A number as a byte operand. -/
def asmByte (v : Int) : Option Byte :=
  if 0 ≤ v ∧ v < 256 then some (BitVec.ofInt 8 v) else none

/-- A number as a 16-bit operand. -/
def asmHalf (v : Int) : Option Half :=
  if 0 ≤ v ∧ v < 65536 then some (BitVec.ofInt 16 v) else none

/-- A number as the signed 32-bit operand `v` (R94). -/
def asmWord (v : Int) : Option Word :=
  if -2147483648 ≤ v ∧ v < 2147483648 then some (BitVec.ofInt 32 v) else none

/-- Five bytes as an address operand. -/
def asmAddr : List Byte → Option Addr
  | [b0, b1, b2, b3, b4] => some ⟨b0, b1, b2, b3, b4⟩
  | _ => none

/-- A byte list whose count the assembler can emit. -/
def asmList (bs : List Byte) : Option (List Byte) := if countFits bs then some bs else none

/-- The operation of a mnemonic without operands, BIND and RESET among them (R126). -/
def asmPlain (name : String) : Option Instr :=
  if name = "INIT" then some .init
  else if name = "BIND" then some Instr.bind
  else if name = "TICK" then some .tick
  else if name = "DEINIT" then some .deinit
  else if name = "RESET" then some Instr.reset
  else if name = "ENC.BIND" then some .encBind
  else if name = "ENC.DATA" then some .encData
  else none

/-- The operation of a mnemonic with one byte list. -/
def asmOfList (name : String) (bs : List Byte) : Option Instr := do
  let m ← asmList bs
  if name = "SCR" then some (.scr m)
  else if name = "LL.SEND" then some (.llSend m)
  else if name = "CSUM" then some (.csum m)
  else none

/-- The operation of a mnemonic with one number. -/
def asmOfNum (name : String) (v : Int) : Option Instr :=
  if name = "LL.CFG" then (asmByte v).map .llCfg
  else if name = "ARM" then (asmWord v).map .arm
  else none

/-- The operation of a mnemonic with a number and a byte list. -/
def asmOfNumList (name : String) (v : Int) (bs : List Byte) : Option Instr :=
  if name = "CRC.SEED" then do return .crcSeed (← asmByte v) (← asmAddr bs)
  else if name = "LL.SETADDR" then do return .llSetaddr (← asmByte v) (← asmAddr bs)
  else if name = "CRC.MSG" then do return .crcMsg (← asmHalf v) (← asmList bs)
  else none

/-- The operation of a mnemonic with three numbers. -/
def asmOfNums (name : String) (x y z : Int) : Option Instr :=
  if name = "CRC.UPD" then do return .crcUpd (← asmHalf x) (← asmByte y) (← asmByte z)
  else if name = "SCALE" then do return .scale (← asmWord x) (← asmByte y) (← asmByte z)
  else none

/-- One command line to its operation (R125). -/
def asmCommand (name : String) : List AsmOperand → Option Instr
  | [] => asmPlain name
  | [.bytes bs] => asmOfList name bs
  | [.num v] => asmOfNum name v
  | [.num v, .bytes bs] => asmOfNumList name v bs
  | [.num x, .num y, .num z] => asmOfNums name x y z
  | _ => none

/-- A line's bytes; a directive assembles to nothing (R127). -/
def asmLine : AsmLine → Option (List Byte)
  | .command name ops => (asmCommand name ops).map encode
  | .directive _ => some []

/-- A listing's command stream (R90, R125). -/
def assemble (lines : List AsmLine) : Option (List Byte) := return (← lines.mapM asmLine).flatten

/-- The environment after a directive: the value is held until the next one (R127). -/
def Directive.apply (e : Env) : Directive → Env
  | .chan i v => { e with chan := e.chan.set i [v] }
  | .power p => { e with power := [p] }
  | .serial v => { e with serial := [v] }
  | .fixedId v => { e with fixedId := [v] }
  | .txa a => { e with txa := some a }
  | .resetOk ok => { e with resetOk := [ok] }

/-- The environment a listing starts in: channels and power at 0, `resetok` at 1 (R127); the
identifiers, of which R127 gives no first value, free. -/
def Env.listing : Env :=
  { Env.free with
    chan := #v[[0], [0], [0], [0], [0], [0], [0], [0], [0], [0]]
    power := [0]
    resetOk := [true] }

end Sys2Proof.Machine
end

