-- ==== Sys2Proof/Safety.lean ====
section
/-! DEFINITION. What counts as a good state and a safe run of the link block, in the terms the claims
use: the invariants of spec 10_state.md R22, R24, R30, R39, the routing of 42_framer.md R166, and runs
of commands (45_session_fsm.md R251, 43_scaler_arming.md R197). -/

namespace Sys2Proof.Machine

/-- `LADDR`, `ALEN` and `SEED` are unwritten together or were written together by one `setaddr`
(R22, R24, R39): `ALEN` is 4 or 5 and `SEED` is the seed of the address. -/
def AddressCoherent (s : State) : Prop :=
  (s.alen = .unwritten ∧ s.seed = .unwritten ∧ s.laddr = []) ∨
    ∃ (len : Byte) (addr : Addr),
      s.alen = .written (BitVec.ofNat 3 (clampLen len)) ∧
      s.seed = .written (crcSeedOf len addr) ∧
      s.laddr = Memory.ofBytes (usedAddr len addr)

/-- `PKT` and `PLEN` are unwritten, or hold a whole packet whose last byte is the checksum of the
bytes its encoder summed (R39, R61, R211). -/
def PacketCoherent (s : State) : Prop :=
  (s.plen = .unwritten ∧ s.pkt = []) ∨
    (∃ a, s.plen = .written 9 ∧ s.pkt = Memory.ofBytes (bindPacket a)) ∨
    ∃ body : List Byte, body.length = 9 ∧ s.plen = .written 10 ∧
      s.pkt = Memory.ofBytes (body ++ [checksum body])

/-- `FRAME` and `FLEN` are unwritten, or hold a whole frame of 8 to 26 bytes (R35, R62, R176). -/
def FrameCoherent (s : State) : Prop :=
  (s.flen = .unwritten ∧ s.frame = []) ∨
    ∃ f : List Byte, 8 ≤ f.length ∧ f.length ≤ 26 ∧
      s.flen = .written (BitVec.ofNat 5 f.length) ∧ s.frame = Memory.ofBytes f

/-- No INIT since power-on: the registers only INIT first writes are unwritten (R22, R49). -/
def NoSession (s : State) : Prop :=
  s.run = false ∧ s.txa = .unwritten ∧ s.phase = .unwritten ∧ s.bcnt = .unwritten ∧
    s.armed = .unwritten ∧ s.aflags = .unwritten ∧ s.lsign = .unwritten ∧ s.txpwr = .unwritten

/-- The arm state after `r` rising and `f` falling edges, both modulo 2, since INIT (R30, R112,
R195 (b)): `ARMED` = `LSIGN`. -/
def ArmState (s : State) : Prop :=
  ∃ r f : Bool, s.lsign = .written (r ^^ f) ∧ s.armed = .written (r ^^ f) ∧
    s.aflags = .written ((if r then s.cfg.armBit else 0) ^^^ (if f then s.cfg.disarmBit else 0))

/-- The phase and its countdown (R28, R29): in Bind `1 <= BCNT <= BIND_COUNT`, in Data 0. -/
def PhaseState (s : State) : Prop :=
  (s.phase = .written .bind ∧
      ∃ n : Half, s.bcnt = .written n ∧ 1 ≤ n.toNat ∧ n.toNat ≤ s.cfg.bindCount) ∨
    (s.phase = .written .data ∧ s.bcnt = .written 0)

/-- An INIT has run: every session register is written (R22, R49). -/
def InSession (s : State) : Prop :=
  (∃ a, s.txa = .written a) ∧ (∃ p, s.txpwr = .written p) ∧ s.alen ≠ .unwritten ∧
    (∃ b, s.crcen = .written b) ∧ ArmState s ∧ PhaseState s

/-- The invariant every step keeps (R39 and the rules above). -/
structure Inv (s : State) : Prop where
  cfg : s.cfg.WellFormed
  address : AddressCoherent s
  packet : PacketCoherent s
  frame : FrameCoherent s
  session : NoSession s ∨ InSession s

/-- `LADDR`, `ALEN` and `SEED` are those of the full five-byte address `a` (R63). -/
def Addressed (s : State) (a : Addr) : Prop :=
  s.alen = .written 5 ∧ s.laddr = Memory.ofBytes a.toList ∧
    s.seed = .written (crcFold Config.crcInit a.toList.reverse)

/-- Address routing (R63, R166): the public bind address in Bind, `TXA` in Data, CRC on. -/
def Routed (s : State) : Prop :=
  s.crcen = .written true ∧
    ((s.phase = .written .bind ∧ Addressed s s.cfg.bindAddr) ∨
      (s.phase = .written .data ∧ ∃ a, s.txa = .written a ∧ Addressed s a))

/-- The framer can send: the active address is `addr` and the CRC starts from `seed`, none when the
CRC is off (R160, R170). -/
def FramerReady (s : State) (addr : List Byte) (seed : Option Half) : Prop :=
  (addr.length = 4 ∨ addr.length = 5) ∧ s.alen = .written (BitVec.ofNat 3 addr.length) ∧
    (∀ i, i < addr.length → s.laddr.read i = addr[i]?) ∧
    ((seed = none ∧ s.crcen = .written false) ∨
      ∃ sd, seed = some sd ∧ s.crcen = .written true ∧ s.seed = .written sd)

/-- The frame such a framer builds for payload `m` (R100, R170). -/
def readyFrame (s : State) (addr : List Byte) (seed : Option Half) (m : List Byte) : List Byte :=
  frameBytes s.cfg addr.reverse (addr.headD 0) s.pid m seed

/-- The event is an `XW_TXADDR` (R44). -/
def Event.isTxaddr : Event → Bool
  | .xwTxaddr _ => true
  | _ => false

/-- The opcode bytes of R92. -/
def tableOpcodes : List Byte :=
  [0x00, 0x01, 0x02, 0x10, 0x11, 0x12, 0x20, 0x30, 0x31, 0x32, 0x40, 0x41, 0x50, 0x51, 0x52]

/-- The six operations that read no register and write none (R73). -/
def IsPure : Instr → Prop
  | .crcUpd _ _ _ | .crcSeed _ _ | .crcMsg _ _ | .scr _ | .scale _ _ _ | .csum _ => True
  | _ => False

/-- The three commands the outside invokes in service (R47). -/
def InService (i : Instr) : Prop := i = .init ∨ i = .tick ∨ i = .deinit

/-- Run commands one after another (R71), stopping at the first fault or refusal. -/
def execAll : List Instr → State → Result
  | [], s => .next s
  | i :: is, s =>
    match exec i s with
    | .next t => execAll is t
    | .fault f => .fault f
    | .refused r => .refused r

/-- `n` ticks (R251). -/
def ticks (n : Nat) : List Instr := List.replicate n .tick

/-- Rising edges of the sign predicate over a sequence, `prev` the sign before it (R195, R197). -/
def risingEdges (prev : Bool) : List Word → Nat
  | [] => 0
  | v :: vs => (if positive v && !prev then 1 else 0) + risingEdges (positive v) vs

/-- Falling edges of the sign predicate over a sequence, `prev` the sign before it (R195, R197). -/
def fallingEdges (prev : Bool) : List Word → Nat
  | [] => 0
  | v :: vs => (if !positive v && prev then 1 else 0) + fallingEdges (positive v) vs

/-- The sign after a sequence. -/
def lastSign (prev : Bool) : List Word → Bool
  | [] => prev
  | v :: vs => lastSign (positive v) vs

end Sys2Proof.Machine
end

