-- ==== Sys2Proof/Certificates/Slice0/Obligations.lean ====
section
/-! DEFINITION. The statements about the link block for the provers, from the numbered rules of spec/. -/

open Sys2Proof Sys2Proof.Machine

/-! ### Reset, the step and the encoding -/

/-- R300: after power-on `RUN = 0`, `PID = 0`, every other register and both buffers unwritten, no
event; the block does nothing until a command arrives; the tick is disabled; what depends on another
power-on value faults. That an empty command port makes the step idle is log entry 6. -/
def Obligations.PowerOnLeavesAllButRunAndPidUnwritten : Prop :=
  State.reset = State.powerOn Config.hardware ∧
  ∀ (c : Cfg) (s : State), s = State.powerOn c →
    s.run = false ∧ s.pid = 0 ∧ (∀ i, s.laddr.read i = none) ∧ s.alen = .unwritten ∧
    s.seed = .unwritten ∧ s.crcen = .unwritten ∧ s.txa = .unwritten ∧ s.phase = .unwritten ∧
    s.bcnt = .unwritten ∧ s.armed = .unwritten ∧ s.aflags = .unwritten ∧ s.lsign = .unwritten ∧
    s.txpwr = .unwritten ∧ (∀ i, s.pkt.read i = none) ∧ s.plen = .unwritten ∧
    (∀ i, s.frame.read i = none) ∧ s.flen = .unwritten ∧ s.events = [] ∧ step s = .next s ∧
    exec .tick s = .refused .tickWhileStopped ∧
    exec .encBind s = .fault (.readOfUnwritten .txa) ∧
    exec .encData s = .fault (.readOfUnwritten .lsign) ∧
    (∀ v, exec (.arm v) s = .fault (.readOfUnwritten .lsign)) ∧
    (∀ m, exec (.llSend m) s = .fault (.readOfUnwritten .alen))

/-- R71, R90: a step decodes the command at the head of the command port, takes its bytes and is
`exec` of it; with no byte pending it changes nothing (log entry 6); it stops as the decoder says. -/
def Obligations.StepRunsTheDecodedCommand : Prop :=
  ∀ s : State,
    (∀ i rest, decode s.cmdIn = .ok (i, rest) → step s = exec i { s with cmdIn := rest }) ∧
    (s.cmdIn = [] → step s = .next s) ∧
    (decode s.cmdIn = .error .reservedOpcode → step s = .refused .reservedOpcode) ∧
    (decode s.cmdIn = .error .malformedOperands → step s = .refused .malformedOperands)

/-- R92, R93, R125: command bytes written out from the tables, one or more per family, decode to the
instruction they stand for and leave the rest of the stream. -/
def Obligations.WrittenCommandsDecode : Prop :=
  decode [0x00] = .ok (.init, []) ∧ decode [0x01, 0x02] = .ok (.tick, [0x02]) ∧
  decode [0x10, 0xFF, 0xFF, 0x00, 0x08] = .ok (.crcUpd 0xFFFF 0x00 8, []) ∧
  decode [0x12, 0x2C, 0x25, 0x01, 0x80, 0x51] = .ok (.crcMsg 0x2C25 [0x80], [0x51]) ∧
  decode [0x20, 0x01, 0x11] = .ok (.scr [0x11], []) ∧
  decode [0x31, 0x05, 0xC1, 0x02, 0x03, 0x04, 0x85] =
    .ok (.llSetaddr 5 ⟨0xC1, 0x02, 0x03, 0x04, 0x85⟩, []) ∧
  decode [0x32, 0x04, 0xDE, 0xAD, 0xBE, 0xEF] = .ok (.llSend [0xDE, 0xAD, 0xBE, 0xEF], []) ∧
  decode [0x40, 0xFF, 0xFF, 0xD8, 0xF0, 0xE1, 0x00] =
    .ok (.scale (BitVec.ofInt 32 (-10000)) 225 0, []) ∧
  decode [0x41, 0x00, 0x00, 0x00, 0x01] = .ok (.arm 1, []) ∧
  decode [0x52] = .ok (.encData, [])

/-- R90 to R95: decoding the bytes of a well-formed instruction, whatever follows them, gives it back
with every operand, and leaves what follows. -/
def Obligations.DecodeInvertsEncode : Prop :=
  ∀ (i : Instr) (rest : List Byte), i.wellFormed = true → decode (encode i ++ rest) = .ok (i, rest)

/-- R90 to R95, the other direction: what the decoder accepts is well-formed and is, byte for byte,
its encoding, so that no command has two readings and no byte is dropped. -/
def Obligations.EncodeInvertsDecode : Prop :=
  ∀ (bs : List Byte) (i : Instr) (rest : List Byte), decode bs = .ok (i, rest) →
    i.wellFormed = true ∧ encode i ++ rest = bs

/-- R120: every opcode byte outside the fifteen, 241 of them, is refused by name in every state,
whatever follows; a refusal leaves no state, event or response. -/
def Obligations.ReservedOpcodesAreRefused : Prop :=
  (∀ (s : State) (op : Byte) (rest : List Byte), op ∉ tableOpcodes → s.cmdIn = op :: rest →
    step s = .refused .reservedOpcode) ∧
  ((List.range 256).filter fun n => BitVec.ofNat 8 n ∉ tableOpcodes).length = 241

/-- R121: CRC.UPD with `n = 0` or `n > 8` is refused; a stream that ends before a command's last
operand byte executes nothing of it; the two repairs are the length clamp and the truncation. That such
a stream is refused, with R272's name, although more bytes might still arrive, is log entry 6. -/
def Obligations.MeaninglessOperandsAreRefused : Prop :=
  (∀ (s : State) (hi lo a n : Byte) (rest : List Byte), (n = 0 ∨ 8 < n.toNat) →
    s.cmdIn = 0x10 :: hi :: lo :: a :: n :: rest → step s = .refused .malformedOperands) ∧
  (∀ (s : State) (i : Instr) (k : Nat), i.wellFormed = true → 0 < k → k < (encode i).length →
    s.cmdIn = (encode i).take k → step s = .refused .malformedOperands) ∧
  (∀ (s : State) (len : Byte) (a : Addr),
    exec (.llSetaddr len a) s = exec (.llSetaddr (BitVec.ofNat 8 (min (max len.toNat 4) 5)) a) s ∧
    exec (.crcSeed len a) s = exec (.crcSeed (BitVec.ofNat 8 (min (max len.toNat 4) 5)) a) s) ∧
  (∀ (s : State) (m : List Byte), exec (.scr m) s = exec (.scr (m.take 15)) s ∧
    exec (.llSend m) s = exec (.llSend (m.take 15)) s)

/-- R90, R95 on the opcode table's numbering: a word the decoder reads an instruction from is taken
and run, exactly, by the next step. -/
def Obligations.TableWordIsTheNextCommand : Prop :=
  ∀ (s : State) (nbits w : Nat) (i : Instr), decodeTableWord nbits w = some i →
    step (s.withFetchWord nbits w) = exec i s

/-! ### The CRC-16 generator -/

/-- R130: CRC.UPD completes with `upd(c, a, n)`, the byte XORed whole into bits 15:8 and then `n`
shift steps, as its two response bytes, and changes nothing else; other counts are refused.
`crcUpdate`, in whose terms later statements speak, is this function. -/
def Obligations.CrcUpdRespondsTheUpdate : Prop :=
  ∀ (c : Half) (a n : Byte) (s : State),
    let w : Half := (fun x : Half => if x.getLsbD 15 then (x <<< 1) ^^^ 0x1021 else x <<< 1)^[n.toNat]
      (c ^^^ (a.setWidth 16 <<< 8))
    (1 ≤ n.toNat ∧ n.toNat ≤ 8 →
      exec (.crcUpd c a n) s =
        .next { s with resp := s.resp ++ [w.extractLsb' 8 8, w.extractLsb' 0 8] }) ∧
    crcUpdate c a n.toNat = w ∧
    (n.toNat = 0 ∨ 8 < n.toNat → exec (.crcUpd c a n) s = .refused .malformedOperands)

/-- R131: CRC.SEED completes with the fold of the used address bytes, index `L-1` first, from
0xFFFF; `len` is clamped to 4..5 and the fifth byte unused at 4. Nothing else changes. `crcSeedOf` is
this function. -/
def Obligations.CrcSeedRespondsTheAddressFold : Prop :=
  ∀ (len a0 a1 a2 a3 a4 : Byte) (s : State),
    let u := fun (c : Half) (b : Byte) => crcUpdate c b 8
    let w := if len.toNat ≤ 4 then u (u (u (u 0xFFFF a3) a2) a1) a0
      else u (u (u (u (u 0xFFFF a4) a3) a2) a1) a0
    exec (.crcSeed len ⟨a0, a1, a2, a3, a4⟩) s =
      .next { s with resp := s.resp ++ [w.extractLsb' 8 8, w.extractLsb' 0 8] } ∧
    crcSeedOf len ⟨a0, a1, a2, a3, a4⟩ = w

/-- R132: CRC.MSG completes; every byte but the last is folded with eight shifts, the last with one,
and an empty message returns the starting state. Nothing else changes. `crcMessage` is this function. -/
def Obligations.CrcMsgRespondsTheMessageFold : Prop :=
  ∀ (seed : Half) (m : List Byte) (b : Byte) (s : State),
    (let w := crcUpdate (m.foldl (fun c x => crcUpdate c x 8) seed) b 1
     exec (.crcMsg seed (m ++ [b])) s =
      .next { s with resp := s.resp ++ [w.extractLsb' 8 8, w.extractLsb' 0 8] } ∧
     crcMessage seed (m ++ [b]) = w) ∧
    exec (.crcMsg seed []) s =
      .next { s with resp := s.resp ++ [seed.extractLsb' 8 8, seed.extractLsb' 0 8] } ∧
    crcMessage seed [] = seed

/-- R133: CRC.MSG is a function of (seed, message) alone, and flipping any single bit of a message, or
any single bit of the starting state, changes the result. -/
def Obligations.CrcIsSensitiveToEverySingleBit : Prop :=
  (∀ (seed : Half) (m : List Byte), ∃ r : List Byte, r.length = 2 ∧
    ∀ s : State, exec (.crcMsg seed m) s = .next (s.respond r)) ∧
  (∀ (seed : Half) (m : List Byte) (i : Fin m.length) (b : Fin 8),
    crcMessage seed (m.set i (m[i] ^^^ BitVec.twoPow 8 b)) ≠ crcMessage seed m) ∧
  (∀ (seed : Half) (m : List Byte) (b : Fin 16),
    crcMessage (seed ^^^ BitVec.twoPow 16 b) m ≠ crcMessage seed m)

/-- R134: eight shifts equal the bit-serial generator over the byte, bit 7 first; one shift equals one
serial step when `a[6:0] = 0`, and differs otherwise; the framer's CRC is the serial CRC of control
byte, filler bit and scrambled payload; the seed that of the address in transmitted order. -/
def Obligations.CrcEqualsTheBitSerialGenerator : Prop :=
  (∀ (c : Half) (a : Byte), crcUpdate c a 8 = crcSerial c (byteBits a)) ∧
  (∀ (c : Half) (a : Byte), a.extractLsb' 0 7 = 0 → crcUpdate c a 1 = crcSerialStep c a.msb) ∧
  (∀ (c : Half) (a : Byte), a.extractLsb' 0 7 ≠ 0 → crcUpdate c a 1 ≠ crcSerialStep c a.msb) ∧
  (∀ (c : Cfg) (pid : BitVec 2) (m : List Byte) (seed : Half),
    frameCrc c pid m seed = crcSerial seed
      (byteBits (controlByte (min m.length 15) pid) ++ c.noackBit :: (scramble c m).flatMap byteBits)) ∧
  (∀ (len : Byte) (a : Addr),
    crcSeedOf len a = crcSerial 0xFFFF ((usedAddr len a).reverse.flatMap byteBits))

/-! ### The scrambler -/

/-- R150: SCR completes and responds `min(k, 15)` bytes, byte `i` the payload's byte `i` XOR
`KEY[i]`; nothing else changes. `scramble` is this function. -/
def Obligations.ScrRespondsPayloadXorKey : Prop :=
  ∀ (m : List Byte) (s : State), ∃ r : List Byte,
    exec (.scr m) s = .next { s with resp := s.resp ++ r } ∧ r.length = min m.length 15 ∧
      r = scramble s.cfg m ∧
      ∀ (i : Fin 15) (b : Byte), m[i.val]? = some b → r[i.val]? = some (b ^^^ s.cfg.key[i])

/-- R152: scrambling twice gives back a payload of at most 15 bytes, and the first 15 bytes of a
longer one. -/
def Obligations.ScrambleTwiceIsTruncation : Prop :=
  ∀ (c : Cfg) (m : List Byte),
    (m.length ≤ 15 → scramble c (scramble c m) = m) ∧
    (15 < m.length → scramble c (scramble c m) = m.take 15)

/-! ### The framer -/

/-- R161: LL.CFG completes; `CRCEN` is whether the flags have the CRC-enable bit, the event carries the
mode bits alone, which in a well-formed `CFG` never have the CRC-enable bit; nothing else changes. -/
def Obligations.LlCfgSetsCrcEnable : Prop :=
  ∀ (flags : Byte) (s : State),
    exec (.llCfg flags) s = .next { s with
      crcen := .written (decide (flags &&& s.cfg.crcEnMask ≠ 0))
      events := s.events ++ [.xwCfg (flags &&& s.cfg.modeMask)] } ∧
    (s.cfg.WellFormed → flags &&& s.cfg.modeMask &&& s.cfg.crcEnMask = 0)

/-- R162, R165: LL.SETADDR completes; `L` is 4 or 5, the event carries five times the byte bit 7 of
`addr[L-1]` selects, `SEED` is the seed of the used bytes, `LADDR` holds exactly those, `ALEN` is `L`;
nothing else changes. -/
def Obligations.LlSetaddrLoadsTheAddress : Prop :=
  ∀ (len : Byte) (a : Addr) (s : State), ∃ (l : Nat) (t : State),
    l = (if len.toNat ≤ 4 then 4 else 5) ∧ exec (.llSetaddr len a) s = .next t ∧
    (∀ i, t.laddr.read i = if i < l then a.toList[i]? else none) ∧ t.laddr.wf = true ∧
    t.alen = .written (BitVec.ofNat 3 l) ∧
    t.seed = .written ((a.toList.take l).reverse.foldl (fun c b => crcUpdate c b 8) 0xFFFF) ∧
    t.events = s.events ++ [.xwTxaddr (List.replicate 5
      (if ((if len.toNat ≤ 4 then a.a3 else a.a4).getLsbD 7) then s.cfg.preIfSet
        else s.cfg.preIfClear))] ∧
    t = { s with laddr := t.laddr, alen := t.alen, seed := t.seed, events := t.events } ∧
    (s.cfg.WellFormed → s.cfg.preIfSet = 0x55 ∧ s.cfg.preIfClear = 0xAA)

/-- R163: every `len` up to 4 acts as 4, every `len` from 5 as 5, none is rejected; at 4 the fifth
byte is ignored. Of LL.SETADDR and of CRC.SEED. -/
def Obligations.AddressLengthIsClamped : Prop :=
  ∀ (len : Byte) (a : Addr) (x : Byte) (s : State),
    (len.toNat ≤ 4 →
      exec (.llSetaddr len a) s = exec (.llSetaddr 4 { a with a4 := x }) s ∧
      exec (.crcSeed len a) s = exec (.crcSeed 4 { a with a4 := x }) s) ∧
    (5 ≤ len.toNat →
      exec (.llSetaddr len a) s = exec (.llSetaddr 5 a) s ∧
      exec (.crcSeed len a) s = exec (.crcSeed 5 a) s) ∧
    ∃ t, exec (.llSetaddr len a) s = .next t

/-- R100 to R107, R170, R173 to R175: LL.SEND of a configured framer completes. The frame is the
reversed address, two guard bytes, the control byte, and the tail of R105's formulas over scrambled
payload and CRC; `FRAME` and `FLEN` hold it, `PID` advances by one, it is submitted twice, and nothing
else changes. `readyFrame`, `controlByte` and `frameCrc`, in whose terms other statements speak, are this
frame, its control byte and its CRC. -/
def Obligations.LlSendBuildsAndSubmitsTheFrame : Prop :=
  ∀ (m addr : List Byte) (seed : Option Half) (s : State), FramerReady s addr seed →
    let n := min m.length 15
    let sc := scramble s.cfg m
    let ctl : Byte := BitVec.ofNat 8 (4 * n + s.pid.toNat)
    let crc : List Byte := match seed with
      | none => []
      | some sd =>
        let w := crcMessage sd (ctl :: tailByFormula s.cfg.noackBit sc)
        [w.extractLsb' 8 8, w.extractLsb' 0 8]
    let f := addr.reverse ++ [addr.headD 0, addr.headD 0, ctl] ++
      tailByFormula s.cfg.noackBit (sc ++ crc)
    ∃ t, exec (.llSend m) s = .next t ∧
      (∀ i, t.frame.read i = f[i]?) ∧ t.frame.wf = true ∧
      t.flen = .written (BitVec.ofNat 5 (addr.length + n + 4 + crc.length)) ∧
      f = readyFrame s addr seed m ∧ ctl = controlByte n s.pid ∧
      (∀ sd, seed = some sd → crc = [(frameCrc s.cfg s.pid m sd).extractLsb' 8 8,
        (frameCrc s.cfg s.pid m sd).extractLsb' 0 8]) ∧
      t.pid = s.pid + 1 ∧ t.events = s.events ++ [.xwPayload f, .xwPayload f] ∧
      t = { s with frame := t.frame, flen := t.flen, pid := t.pid, events := t.events }

/-- R105: the tail cut from the bit sequence is the tail of the byte formulas, for every filler bit
and content, and is one byte longer than its content. -/
def Obligations.TailBitsEqualTheByteFormulas : Prop :=
  ∀ (noack : Bool) (content : List Byte),
    tailBytes noack content = tailByFormula noack content ∧
      (tailBytes noack content).length = content.length + 1

/-- R176: the frame of LL.SEND has `ALEN + n + 4 + 2 * CRCEN` bytes, at least 8 and at most 26, and
`FLEN` says so; both bounds are met. -/
def Obligations.FrameLengthIsEightToTwentySix : Prop :=
  (∀ (m addr : List Byte) (seed : Option Half) (s t : State), FramerReady s addr seed →
    exec (.llSend m) s = .next t →
    ∃ f : List Byte, t.frame = Memory.ofBytes f ∧ t.flen = .written (BitVec.ofNat 5 f.length) ∧
      f.length = addr.length + min m.length 15 + 4 + 2 * (if seed.isSome then 1 else 0) ∧
      8 ≤ f.length ∧ f.length ≤ 26) ∧
  (∀ (addr : List Byte) (s : State), FramerReady s addr none → addr.length = 4 →
    (readyFrame s addr none []).length = 8) ∧
  (∀ (addr m : List Byte) (sd : Half) (s : State), FramerReady s addr (some sd) →
    addr.length = 5 → m.length = 15 → (readyFrame s addr (some sd) m).length = 26)

/-- R151, R171: bytes of a payload past the fifteenth reach nothing: SCR and LL.SEND act as on the
first fifteen, SCR completes on every payload and a configured framer sends every payload, and the
control byte's length field is the truncated length. The protocol's own packets have 9 or 10 bytes. -/
def Obligations.BytesPastTheFifteenthReachNothing : Prop :=
  (∀ (m : List Byte) (s : State), exec (.scr m) s = exec (.scr (m.take 15)) s ∧
    exec (.llSend m) s = exec (.llSend (m.take 15)) s ∧ ∃ t, exec (.scr m) s = .next t) ∧
  (∀ (m addr : List Byte) (seed : Option Half) (s : State), FramerReady s addr seed →
    (∃ t, exec (.llSend m) s = .next t) ∧
    ∃ b, (readyFrame s addr seed m)[addr.length + 2]? = some b ∧
      b.toNat = 4 * min m.length 15 + s.pid.toNat) ∧
  (∀ (c : Cfg) (a : Addr) (ch : Channels) (x : Byte),
    (bindPacket a).length = 9 ∧ (dataPacket c ch x).length = 10)

/-- R26: over all operations `PID` becomes 0 in INIT, advances by one in LL.SEND and TICK, and stays
otherwise; the control byte of both submissions carries the value before the increment; power-on
leaves 0. -/
def Obligations.PacketIdAdvancesOncePerSend : Prop :=
  (∀ (i : Instr) (s t : State), exec i s = .next t →
    t.pid = match i with
      | .init => 0
      | .tick => s.pid + 1
      | .llSend _ => s.pid + 1
      | _ => s.pid) ∧
  (∀ (m : List Byte) (s t : State) (alen : BitVec 3), exec (.llSend m) s = .next t →
    s.alen = .written alen →
    ∃ (f : List Byte) (b : Byte), t.events = s.events ++ [.xwPayload f, .xwPayload f] ∧
      f[alen.toNat + 2]? = some b ∧ b.extractLsb' 0 2 = s.pid) ∧
  State.reset.pid = 0

/-- R22, R170, R272: LL.SEND names the first unwritten register in the order `ALEN`, `CRCEN`,
`LADDR[ALEN-1]` down to `LADDR[0]`, `SEED` (CRC on); ENC.BIND names `TXA`; ARM and ENC.DATA name
`LSIGN`, then `AFLAGS`, which ENC.DATA reads on an edge or not and ARM on an edge alone: on a sustained
sign ARM completes and changes nothing, whatever `AFLAGS` is. -/
def Obligations.FaultsNameTheFirstUnwrittenRegister : Prop :=
  ∀ (m : List Byte) (v : Word) (s : State),
    (s.alen = .unwritten → exec (.llSend m) s = .fault (.readOfUnwritten .alen)) ∧
    (∀ a, s.alen = .written a → s.crcen = .unwritten →
      exec (.llSend m) s = .fault (.readOfUnwritten .crcen)) ∧
    (∀ (a : BitVec 3) (c : Bool) (j : Nat), s.alen = .written a → s.crcen = .written c →
      j < a.toNat → s.laddr.read j = none → (∀ k, j < k → k < a.toNat → s.laddr.read k ≠ none) →
      exec (.llSend m) s = .fault (.readOfUnwritten (.laddr j))) ∧
    (∀ (a : BitVec 3), s.alen = .written a → 0 < a.toNat → s.crcen = .written true →
      (∀ k, k < a.toNat → s.laddr.read k ≠ none) → s.seed = .unwritten →
      exec (.llSend m) s = .fault (.readOfUnwritten .seed)) ∧
    (s.txa = .unwritten → exec .encBind s = .fault (.readOfUnwritten .txa)) ∧
    (s.lsign = .unwritten → exec (.arm v) s = .fault (.readOfUnwritten .lsign) ∧
      exec .encData s = .fault (.readOfUnwritten .lsign)) ∧
    (∀ l, s.lsign = .written l → decide (0 < v.toInt) ≠ l → s.aflags = .unwritten →
      exec (.arm v) s = .fault (.readOfUnwritten .aflags)) ∧
    (∀ l, s.lsign = .written l → decide (0 < v.toInt) = l → exec (.arm v) s = .next s) ∧
    (∀ l, s.lsign = .written l → s.aflags = .unwritten →
      exec .encData s = .fault (.readOfUnwritten .aflags))

/-! ### The scaler and the arming tracker -/

/-- R190, R193: SCALE completes; its response byte is the formula's exact value, which lies between
`dmin` and `dmax`; nothing else changes. `scaleByte` and `scaleInt` are this value. -/
def Obligations.ScaleRespondsTheFormula : Prop :=
  ∀ (v : Word) (dmin dmax : Byte) (s : State), 1 ≤ s.cfg.chMax →
    ∃ b : Byte, exec (.scale v dmin dmax) s = .next { s with resp := s.resp ++ [b] } ∧
      (b.toNat : Int) =
        (((dmax.toNat : Int) - dmin.toNat) *
          (min (max v.toInt (-(s.cfg.chMax : Int))) s.cfg.chMax + s.cfg.chMax)).tdiv
            (2 * s.cfg.chMax) + dmin.toNat ∧
      b = scaleByte s.cfg v dmin dmax ∧ (b.toNat : Int) = scaleInt s.cfg v dmin dmax ∧
      min dmin.toNat dmax.toNat ≤ b.toNat ∧ b.toNat ≤ max dmin.toNat dmax.toNat

/-- R190 (a), (d), (e), R191: at or below `-CH_MAX` SCALE gives `dmin`, at or above `+CH_MAX` it gives
`dmax`, a range of one point gives that point, and the result is monotone in the channel value. -/
def Obligations.ScaleIsMonotoneBetweenItsEnds : Prop :=
  ∀ (c : Cfg) (v w : Word) (dmin dmax : Byte), 1 ≤ c.chMax →
    (v.toInt ≤ -(c.chMax : Int) → scaleByte c v dmin dmax = dmin) ∧
    ((c.chMax : Int) ≤ v.toInt → scaleByte c v dmin dmax = dmax) ∧
    scaleByte c v dmin dmin = dmin ∧
    (v.toInt ≤ w.toInt → dmin.toNat ≤ dmax.toNat →
      (scaleByte c v dmin dmax).toNat ≤ (scaleByte c w dmin dmax).toNat) ∧
    (v.toInt ≤ w.toInt → dmax.toNat ≤ dmin.toNat →
      (scaleByte c w dmin dmax).toNat ≤ (scaleByte c v dmin dmax).toNat)

/-- R192: with `1 <= CH_MAX <= 2^22` every intermediate value of the scaler fits a 32-bit
two's-complement word, and the same formula in 32-bit signed arithmetic gives the same result. -/
def Obligations.ScalerFitsThirtyTwoBits : Prop :=
  ∀ (c : Cfg) (v : Word) (dmin dmax : Byte), 1 ≤ c.chMax → c.chMax ≤ 2 ^ 22 →
    (scaleWord c v dmin dmax).toInt = scaleInt c v dmin dmax ∧
    |(dmax.toNat : Int) - dmin.toNat| ≤ 255 ∧
    0 ≤ clampChan c v + c.chMax ∧ clampChan c v + c.chMax ≤ 2 ^ 23 ∧
    |((dmax.toNat : Int) - dmin.toNat) * (clampChan c v + c.chMax)| < 2 ^ 31

/-- R195: ARM completes. On a change of the sign `v > 0` it writes `LSIGN` and `ARMED` and XORs the ARM
mask (rising) or the DISARM mask (falling) into `AFLAGS`; without one it changes nothing. -/
def Obligations.ArmTogglesOnASignChange : Prop :=
  ∀ (v : Word) (l : Bool) (x : Byte) (s : State), s.lsign = .written l → s.aflags = .written x →
    exec (.arm v) s = .next
      (if 0 < v.toInt then
        if l then s
        else { s with lsign := .written true, armed := .written true,
                      aflags := .written (x ^^^ s.cfg.armBit) }
       else
        if l then { s with lsign := .written false, armed := .written false,
                           aflags := .written (x ^^^ s.cfg.disarmBit) }
        else s)

/-- R195 (b) and (d), R197: over any sequence of ARM operations the arm flags are XORed with the ARM
mask once a rising edge and with the DISARM mask once a falling edge, the last sign is remembered, and
no other register changes. -/
def Obligations.ArmFlagsFollowEdgeParity : Prop :=
  ∀ (vs : List Word) (l : Bool) (x : Byte) (s : State), s.lsign = .written l →
    s.aflags = .written x →
    ∃ t, execAll (vs.map .arm) s = .next t ∧ t.lsign = .written (lastSign l vs) ∧
      t.aflags = .written (x ^^^ (if risingEdges l vs % 2 = 1 then s.cfg.armBit else 0) ^^^
        (if fallingEdges l vs % 2 = 1 then s.cfg.disarmBit else 0)) ∧
      t.armed = (if risingEdges l vs + fallingEdges l vs = 0 then s.armed
        else .written (lastSign l vs)) ∧
      t = { s with lsign := t.lsign, armed := t.armed, aflags := t.aflags }

/-- R39, R197 over all operations: outside INIT the arm flags change only together with the remembered
sign, in ARM, ENC.DATA or TICK, and by exactly the mask of that edge. -/
def Obligations.ArmFlagsChangeOnlyWithTheSign : Prop :=
  ∀ (i : Instr) (s t : State), exec i s = .next t → i ≠ .init →
    (t.lsign = s.lsign ∧ t.armed = s.armed ∧ t.aflags = s.aflags) ∨
    ((i = .tick ∨ i = .encData ∨ ∃ v, i = .arm v) ∧
      ∃ (b : Bool) (x : Byte), s.lsign = .written (!b) ∧ s.aflags = .written x ∧
        t.lsign = .written b ∧ t.armed = .written b ∧
        t.aflags = .written (x ^^^ if b then s.cfg.armBit else s.cfg.disarmBit))

/-! ### The checksum accumulator and the encoders -/

/-- R210: CSUM completes and responds the sum of the bytes modulo 256, which does not depend on their
order; nothing else changes. `checksum` is this function. -/
def Obligations.CsumRespondsTheSumModulo256 : Prop :=
  ∀ (m : List Byte) (s : State), ∃ b : Byte,
    exec (.csum m) s = .next { s with resp := s.resp ++ [b] } ∧
      b.toNat = (m.map BitVec.toNat).sum % 256 ∧ b = checksum m ∧
      ∀ m' : List Byte, m.Perm m' → exec (.csum m') s = exec (.csum m) s

/-- R110, R214: ENC.BIND completes; `PKT` holds exactly the nine bytes 18 04 06, the address in index
order and the sum of the five address bytes modulo 256, `PKT[9]` is unwritten, the nine bytes are the
response, and nothing else changes. `bindPacket` is these nine bytes. -/
def Obligations.EncBindBuildsTheBindPacket : Prop :=
  ∀ (a0 a1 a2 a3 a4 : Byte) (s : State), s.txa = .written ⟨a0, a1, a2, a3, a4⟩ →
    let p : List Byte := [0x18, 0x04, 0x06, a0, a1, a2, a3, a4, BitVec.ofNat 8
      ((a0.toNat + a1.toNat + a2.toNat + a3.toNat + a4.toNat) % 256)]
    ∃ t, exec .encBind s = .next t ∧ (∀ i, t.pkt.read i = p[i]?) ∧ t.pkt.wf = true ∧
      t.plen = .written 9 ∧ t.resp = s.resp ++ p ∧ p = bindPacket ⟨a0, a1, a2, a3, a4⟩ ∧
      t = { s with pkt := t.pkt, plen := t.plen, resp := t.resp }

/-- R211: the data packet's last byte is the checksum of the nine before it; the bind packet's that of
the five address bytes alone, so that the checksum of its first eight bytes exceeds it by 0x22. -/
def Obligations.ChecksumScopeOfThePackets : Prop :=
  (∀ (c : Cfg) (ch : Channels) (x : Byte), ∃ b : Byte,
    (dataPacket c ch x)[9]? = some b ∧ b = checksum ((dataPacket c ch x).take 9)) ∧
  (∀ a : Addr, ∃ b : Byte, (bindPacket a)[8]? = some b ∧
    b = checksum ((bindPacket a).drop 3 |>.take 5) ∧
    checksum ((bindPacket a).take 8) = b + 0x22)

/-- R41, R111, R215 to R217: ENC.DATA completes. The arming tracker runs first on the arm channel; the
ten bytes are the four scaled axes, the two trims, `AFLAGS` after the tracker, the OR of the expert bit
and the four threshold bits, zero, and the sum of the nine; they are `PKT` and the response; the nine
channel reads are the only other effect. Where each channel `i` presents `v i`, each role gets what the
channel that `CFG.CH_*` names for it presents, and no channel's value is used up. `dataPacket` is these
ten bytes. -/
def Obligations.EncDataBuildsTheDataPacket : Prop :=
  ∀ (l : Bool) (x : Byte) (s : State), s.lsign = .written l → s.aflags = .written x →
    let c := s.cfg
    let ch := (s.env.readChannels c).1
    let sgn := decide (0 < ch.arm.toInt)
    let y := if sgn = l then x else if sgn then x ^^^ c.armBit else x ^^^ c.disarmBit
    let on := fun (v : Word) (mask : Byte) => if c.auxThresh < v.toInt then mask else 0
    let body : List Byte :=
      [scaleByte c ch.thr c.thrMin c.thrMax, scaleByte c ch.rud c.rudMin c.rudMax,
       scaleByte c ch.ail c.ailMin c.ailMax, scaleByte c ch.ele c.eleMin c.eleMax,
       c.trim0, c.trim1, y,
       c.expertBit ||| on ch.flip c.flipBit ||| on ch.led c.ledBit |||
         on ch.headless c.headlessBit ||| on ch.rth c.rthBit, 0x00]
    let p := body ++ [BitVec.ofNat 8 ((body.map BitVec.toNat).sum % 256)]
    ∃ t, exec .encData s = .next t ∧ (∀ i, t.pkt.read i = p[i]?) ∧ t.pkt.wf = true ∧
      t.plen = .written 10 ∧ t.resp = s.resp ++ p ∧ t.lsign = .written sgn ∧
      t.aflags = .written y ∧ t.armed = (if sgn = l then s.armed else .written sgn) ∧
      p = dataPacket c ch y ∧
      t = { s with pkt := t.pkt, plen := t.plen, resp := t.resp, lsign := t.lsign,
                   aflags := t.aflags, armed := t.armed, env := (s.env.readChannels c).2 } ∧
      ∀ v : Fin 10 → Word, (∀ i, s.env.chan[i] = [v i]) →
        ch = { arm := v c.chArm, thr := v c.chThr, rud := v c.chRud, ail := v c.chAil,
               ele := v c.chEle, flip := v c.chFlip, led := v c.chLed,
               headless := v c.chHeadless, rth := v c.chRth } ∧
        t.env = { s.env with reads := s.env.reads + 9 }

/-- R40, R41, R215, R217: one ENC.DATA reads the CHAN port nine times, once for each role in the
pseudocode's order, at the index `CFG.CH_*` names. The read of role `k` presents what the script of its
channel holds after the earlier reads of that same channel, its last value held, or a free value where
the channel has no script (log entries 4, 5); roles that name one channel take successive values; no
other port and no other channel is touched. -/
def Obligations.EachRoleReadsItsOwnChannel : Prop :=
  ∀ (c : Cfg) (e : Env),
    let roles : List (Fin 10) := [c.chArm, c.chThr, c.chRud, c.chAil, c.chEle, c.chFlip, c.chLed,
      c.chHeadless, c.chRth]
    let ch := (e.readChannels c).1
    let got : List Word := [ch.arm, ch.thr, ch.rud, ch.ail, ch.ele, ch.flip, ch.led, ch.headless,
      ch.rth]
    (∀ (k : Nat) (i : Fin 10), roles[k]? = some i →
      (e.chan[i] = [] → got[k]? = some (Config.freeChan (e.reads + k))) ∧
      (e.chan[i] ≠ [] →
        got[k]? = e.chan[i][min ((roles.take k).count i) (e.chan[i].length - 1)]?)) ∧
    (∀ i : Fin 10, (e.readChannels c).2.chan[i] =
      e.chan[i].drop (min (roles.count i) (e.chan[i].length - 1))) ∧
    (e.readChannels c).2 =
      { e with chan := (e.readChannels c).2.chan, reads := e.reads + 9 }

/-- R40, R42, R43, R46: a read of POWER, SERIAL, FIXED_ID, a channel or the answer of X_RESET presents
the first value of that port's script and takes it unless it is the last, which is held; where there is
no script the value is a free one of its own at every read and the port stays without a script, SERIAL
of `SERIAL_LEN` bytes and FIXED_ID of 1 to 8 where they are present (log entries 4, 5). No other port
changes. -/
def Obligations.PortReadsPresentTheirScripts : Prop :=
  ∀ (c : Cfg) (e : Env) (j : Fin 10) (v v' : Word) (vs : List Word) (q q' : Byte) (qs : List Byte)
    (x x' : Option (List Byte)) (xs : List (Option (List Byte))) (b b' : Bool) (bs : List Bool),
    (e.chan[j] = [v] → e.readChan j = (v, { e with reads := e.reads + 1 })) ∧
    (e.chan[j] = v :: v' :: vs → e.readChan j =
      (v, { e with chan := e.chan.set j (v' :: vs), reads := e.reads + 1 })) ∧
    (e.power = [q] → e.readPower = (q, { e with reads := e.reads + 1 })) ∧
    (e.power = q :: q' :: qs → e.readPower =
      (q, { e with power := q' :: qs, reads := e.reads + 1 })) ∧
    (e.serial = [x] → e.readSerial c = (x, { e with reads := e.reads + 1 })) ∧
    (e.serial = x :: x' :: xs → e.readSerial c =
      (x, { e with serial := x' :: xs, reads := e.reads + 1 })) ∧
    (e.fixedId = [x] → e.readFixedId = (x, { e with reads := e.reads + 1 })) ∧
    (e.fixedId = x :: x' :: xs → e.readFixedId =
      (x, { e with fixedId := x' :: xs, reads := e.reads + 1 })) ∧
    (e.resetOk = [b] → e.readResetOk = (b, { e with reads := e.reads + 1 })) ∧
    (e.resetOk = b :: b' :: bs → e.readResetOk =
      (b, { e with resetOk := b' :: bs, reads := e.reads + 1 })) ∧
    (e.chan[j] = [] → e.readChan j = (Config.freeChan e.reads, { e with reads := e.reads + 1 })) ∧
    (e.power = [] → e.readPower = (Config.freePower e.reads, { e with reads := e.reads + 1 })) ∧
    (e.resetOk = [] →
      e.readResetOk = (Config.freeResetOk e.reads, { e with reads := e.reads + 1 })) ∧
    (e.serial = [] → e.readSerial c =
      (freeSerial c.serialLen e.reads, { e with reads := e.reads + 1 })) ∧
    (e.fixedId = [] →
      e.readFixedId = (freeFixedId e.reads, { e with reads := e.reads + 1 })) ∧
    (∃ l : List Byte, freeSerial c.serialLen e.reads =
        (if Config.freeSerialPresent e.reads then some l else none) ∧ l.length = c.serialLen ∧
      ∀ n, n < l.length → l[n]? = some (Config.freeSerialByte e.reads n)) ∧
    (∃ l : List Byte, freeFixedId e.reads =
        (if Config.freeFixedIdPresent e.reads then some l else none) ∧ 1 ≤ l.length ∧ l.length ≤ 8 ∧
      ∀ n, n < l.length → l[n]? = some (Config.freeFixedIdByte e.reads n))

/-- R218: the encoders carry nothing from one invocation to the next but the arm state and `TXA`: two
states that agree in `CFG`, `LSIGN`, `AFLAGS` and the nine channel values presented get the same ten
bytes, and two that agree in `TXA` the same nine, whatever else differs. -/
def Obligations.EncodersCarryNothingOver : Prop :=
  (∀ s t s' t' : State, s.cfg = t.cfg →
    (s.env.readChannels s.cfg).1 = (t.env.readChannels t.cfg).1 →
    s.lsign = t.lsign → s.aflags = t.aflags →
    exec .encData s = .next s' → exec .encData t = .next t' →
    ∃ p : List Byte, p.length = 10 ∧ s'.resp = s.resp ++ p ∧ t'.resp = t.resp ++ p ∧
      s'.pkt = Memory.ofBytes p ∧ t'.pkt = Memory.ofBytes p) ∧
  (∀ s t s' t' : State, s.txa = t.txa → exec .encBind s = .next s' → exec .encBind t = .next t' →
    ∃ p : List Byte, p.length = 9 ∧ s'.resp = s.resp ++ p ∧ t'.resp = t.resp ++ p ∧
      s'.pkt = Memory.ofBytes p ∧ t'.pkt = Memory.ofBytes p)

/-! ### The session -/

/-- R49, R236: INIT completes in every state, reads no register, and leaves every session register at
the value of R49's table, the packet and frame buffers and the command port as they were, with the
seven events in R236's order. -/
def Obligations.InitStartsASession : Prop :=
  ∀ s : State,
    let c := s.cfg
    let d := deriveTxa c s.env
    let p := d.2.readPower
    ∃ t, exec .init s = .next t ∧ t.txa = .written d.1 ∧ t.phase = .written .bind ∧
      t.bcnt = .written (BitVec.ofNat 16 c.bindCount) ∧ t.pid = 0 ∧ t.armed = .written false ∧
      t.aflags = .written 0x00 ∧ t.lsign = .written false ∧ t.txpwr = .written p.1 ∧
      t.crcen = .written (decide (c.initFlags &&& c.crcEnMask ≠ 0)) ∧ t.alen = .written 5 ∧
      (∀ i, t.laddr.read i = c.bindAddr.toList[i]?) ∧ t.laddr.wf = true ∧
      t.seed = .written (c.bindAddr.toList.reverse.foldl (fun c b => crcUpdate c b 8) 0xFFFF) ∧
      t.run = true ∧
      (∃ q : Byte, q = (if c.bindAddr.a4.getLsbD 7 then c.preIfSet else c.preIfClear) ∧
        t.events = s.events ++ [.schedStop, .xBringup, .xSetpower p.1,
          .xwCfg (c.initFlags &&& c.modeMask), .xwTxaddr [q, q, q, q, q], .bindstat c.bindEst,
          .schedStart c.initDelay]) ∧
      (c.WellFormed → t.crcen = .written true) ∧
      t.cfg = c ∧ t.pkt = s.pkt ∧ t.plen = s.plen ∧ t.frame = s.frame ∧ t.flen = s.flen ∧
      t.cmdIn = s.cmdIn ∧ t.resp = s.resp ∧ t.env = p.2

/-- R231: without the `.txa` directive (log entry 10) INIT's address is the mixer's over the seed
constant, serial bytes, fixed-id bytes and `N_ZERO` zero bytes, four bytes least significant first and
one more after an extra zero step, whenever either identifier is present; with both absent it is the
free draw of five bytes (log entry 9). With the directive it is the directive's, for this INIT alone. -/
def Obligations.InitDerivesTheAddress : Prop :=
  ∀ s t : State, exec .init s = .next t →
    let serial := (s.env.readSerial s.cfg).1
    let fixedId := ((s.env.readSerial s.cfg).2.readFixedId).1
    let w := (serial.getD [] ++ fixedId.getD [] ++ List.replicate s.cfg.nZero 0x00).foldl
      Config.mix s.cfg.mixSeed
    (s.env.txa = none → serial ≠ none ∨ fixedId ≠ none →
      t.txa = .written ⟨w.extractLsb' 0 8, w.extractLsb' 8 8, w.extractLsb' 16 8, w.extractLsb' 24 8,
        (Config.mix w 0x00).extractLsb' 0 8⟩) ∧
    (s.env.txa = none → serial = none → fixedId = none →
      t.txa = .written (Config.freeTxa s.env.reads)) ∧
    (∀ a, s.env.txa = some a → t.txa = .written a) ∧ t.env.txa = none

/-- R301: INIT completes in every state and leaves every session register written, the arm state reset.
Two INITs with the same `CFG` that read the same `SERIAL`, `FIXED_ID` and `POWER`, one of the two
identifiers present (or the address fixed by the same `.txa`, log entry 10), leave the same session
registers and emit the same events whatever the states before. INIT is the only operation that takes
`PHASE` from Data to Bind. -/
def Obligations.InitForgetsTheOldSession : Prop :=
  let serial := fun s : State => (s.env.readSerial s.cfg).1
  let fixedId := fun s : State => ((s.env.readSerial s.cfg).2.readFixedId).1
  let power := fun s : State => ((s.env.readSerial s.cfg).2.readFixedId).2.readPower.1
  (∀ s : State, ∃ t, exec .init s = .next t ∧ t.run = true ∧ t.pid = 0 ∧
    t.armed = .written false ∧ t.aflags = .written 0x00 ∧ t.lsign = .written false ∧
    t.phase = .written .bind ∧ t.bcnt ≠ .unwritten ∧ t.txa ≠ .unwritten ∧ t.txpwr ≠ .unwritten ∧
    t.crcen ≠ .unwritten ∧ t.seed ≠ .unwritten ∧ t.alen = .written 5 ∧
    ∀ i, i < 5 → t.laddr.read i ≠ none) ∧
  (∀ s t s' t' : State, s.cfg = t.cfg → s.env.txa = t.env.txa → serial s = serial t →
    fixedId s = fixedId t → power s = power t →
    (serial s ≠ none ∨ fixedId s ≠ none ∨ s.env.txa ≠ none) →
    exec .init s = .next s' → exec .init t = .next t' →
    (∃ ev, s'.events = s.events ++ ev ∧ t'.events = t.events ++ ev) ∧ s'.laddr = t'.laddr ∧
      s'.alen = t'.alen ∧ s'.seed = t'.seed ∧ s'.crcen = t'.crcen ∧ s'.pid = t'.pid ∧
      s'.txa = t'.txa ∧ s'.phase = t'.phase ∧ s'.bcnt = t'.bcnt ∧ s'.armed = t'.armed ∧
      s'.aflags = t'.aflags ∧ s'.lsign = t'.lsign ∧ s'.txpwr = t'.txpwr ∧ s'.run = t'.run) ∧
  (∀ (i : Instr) (s t : State), exec i s = .next t → s.phase = .written .data →
    t.phase = .written .bind → i = .init)

/-- R322: TICK while `RUN = 0` is refused by name in every state, whatever register is unwritten. -/
def Obligations.TickIsRefusedWhileStopped : Prop :=
  ∀ s : State, s.run = false → exec .tick s = .refused .tickWhileStopped

/-- R241, R243 to R245: a Bind-phase TICK completes. It sends the bind packet's frame twice, counts
`BCNT` down, and when it reaches 0 switches to `TXA` and Data with `XW_TXADDR` and `BINDSTAT(0)`; then a
changed power level is applied; it responds the period. The arm state, `TXA`, `CRCEN`, `RUN` and every
channel script are as before. -/
def Obligations.BindTickSendsCountsAndSwitches : Prop :=
  ∀ (s : State) (a : Addr) (n : Half) (q : Byte) (addr : List Byte) (seed : Option Half),
    s.run = true → s.phase = .written .bind → s.txa = .written a → s.bcnt = .written n →
    s.txpwr = .written q → FramerReady s addr seed →
    let c := s.cfg
    let p := s.env.readPower
    let f := readyFrame s addr seed (bindPacket a)
    let x := if a.a4.getLsbD 7 then c.preIfSet else c.preIfClear
    let per : Half := BitVec.ofNat 16 c.period
    exec .tick s = .next { s with
      laddr := if n = 1 then Memory.ofBytes a.toList else s.laddr
      alen := if n = 1 then .written 5 else s.alen
      seed := if n = 1 then
        .written (a.toList.reverse.foldl (fun c b => crcUpdate c b 8) 0xFFFF) else s.seed
      phase := .written (if n = 1 then .data else .bind)
      bcnt := .written (n - 1)
      pid := s.pid + 1
      txpwr := .written p.1
      pkt := Memory.ofBytes (bindPacket a)
      plen := .written 9
      frame := Memory.ofBytes f
      flen := .written (BitVec.ofNat 5 f.length)
      resp := s.resp ++ [per.extractLsb' 8 8, per.extractLsb' 0 8]
      events := s.events ++ [.xwPayload f, .xwPayload f] ++
        (if n = 1 then [.xwTxaddr [x, x, x, x, x], .bindstat 0] else []) ++
        (if p.1 = q then [] else [.xSetpower p.1])
      env := p.2 }

/-- R242 to R244: a Data-phase TICK completes. It runs ENC.DATA's tracker and packet, sends its frame
twice, then applies a changed power level; it responds the period. `PHASE`, `BCNT`, `LADDR`, `ALEN`,
`SEED`, `TXA`, `CRCEN` and `RUN` are as before. Where each channel `i` presents `v i`, each role gets
what the channel `CFG.CH_*` names for it presents. -/
def Obligations.DataTickSendsTheDataPacket : Prop :=
  ∀ (s : State) (l : Bool) (x q : Byte) (addr : List Byte) (seed : Option Half),
    s.run = true → s.phase = .written .data → s.lsign = .written l → s.aflags = .written x →
    s.txpwr = .written q → FramerReady s addr seed →
    let c := s.cfg
    let p := s.env.readPower
    let ch := p.2.readChannels c
    let sgn := decide (0 < ch.1.arm.toInt)
    let y := if sgn = l then x else if sgn then x ^^^ c.armBit else x ^^^ c.disarmBit
    let pk := dataPacket c ch.1 y
    let f := readyFrame s addr seed pk
    let per : Half := BitVec.ofNat 16 c.period
    exec .tick s = .next { s with
      lsign := .written sgn
      armed := if sgn = l then s.armed else .written sgn
      aflags := .written y
      pid := s.pid + 1
      txpwr := .written p.1
      pkt := Memory.ofBytes pk
      plen := .written 10
      frame := Memory.ofBytes f
      flen := .written (BitVec.ofNat 5 f.length)
      resp := s.resp ++ [per.extractLsb' 8 8, per.extractLsb' 0 8]
      events := s.events ++ [.xwPayload f, .xwPayload f] ++
        (if p.1 = q then [] else [.xSetpower p.1])
      env := ch.2 } ∧
    ∀ v : Fin 10 → Word, (∀ i, s.env.chan[i] = [v i]) →
      ch.1 = { arm := v c.chArm, thr := v c.chThr, rud := v c.chRud, ail := v c.chAil,
               ele := v c.chEle, flip := v c.chFlip, led := v c.chLed,
               headless := v c.chHeadless, rth := v c.chRth }

/-- R240 (a), R244: from every state of the invariant with `RUN = 1` TICK completes, sends exactly one
frame, twice and first of all its events, advances `PID` by one, keeps `RUN` and responds 4500. -/
def Obligations.RunningTickCompletes : Prop :=
  ∀ s : State, Inv s → s.run = true →
    ∃ t f ev, exec .tick s = .next t ∧ t.events = s.events ++ [.xwPayload f, .xwPayload f] ++ ev ∧
      (∀ g, Event.xwPayload g ∉ ev) ∧ t.pid = s.pid + 1 ∧ t.run = true ∧
      t.resp = s.resp ++ [0x11, 0x94]

/-- R251: a session started by INIT and driven by `k` ticks, `B = BIND_COUNT`: while `k < B` the phase
is Bind and `BCNT = B - k`, from `B` on it is Data and `BCNT = 0`; the packet-id is `k mod 4`;
`BINDSTAT(0)` came exactly once, in tick `B`, and `XW_TXADDR` only in INIT and in tick `B`; the next
tick's frame has the bind address or `TXA` at its head and packet-id `k mod 4`. -/
def Obligations.SessionRunsBindThenData : Prop :=
  ∀ (s : State) (k : Nat), s.cfg.WellFormed →
    ∃ t u v f a, exec .init s = .next t ∧ execAll (ticks k) t = .next u ∧ exec .tick u = .next v ∧
      t.txa = .written a ∧ u.txa = .written a ∧ u.run = true ∧
      u.pid = BitVec.ofNat 2 k ∧
      (k < s.cfg.bindCount →
        u.phase = .written .bind ∧ u.bcnt = .written (BitVec.ofNat 16 (s.cfg.bindCount - k))) ∧
      (s.cfg.bindCount ≤ k → u.phase = .written .data ∧ u.bcnt = .written 0) ∧
      (u.events.drop t.events.length).count (.bindstat 0) =
        (if s.cfg.bindCount ≤ k then 1 else 0) ∧
      (u.events.drop t.events.length).countP Event.isTxaddr =
        (if s.cfg.bindCount ≤ k then 1 else 0) ∧
      (t.events.drop s.events.length).countP Event.isTxaddr = 1 ∧
      (v.events.drop u.events.length).take 2 = [.xwPayload f, .xwPayload f] ∧
      f.take 5 = (if k < s.cfg.bindCount then s.cfg.bindAddr else a).toList.reverse ∧
      ∃ b, f[7]? = some b ∧ b.extractLsb' 0 2 = BitVec.ofNat 2 k

/-- R230: over all operations `PHASE` changes only in INIT, which sets Bind with a fresh countdown, and
in the TICK whose decrement brings `BCNT` to 0, which takes Bind to Data; that TICK always does; INIT
starts in Bind with the address DERIVE gives; no other operation moves `PHASE` or `BCNT`. -/
def Obligations.PhaseNeverRegresses : Prop :=
  (∀ (i : Instr) (s t : State), exec i s = .next t → t.phase ≠ s.phase →
    (i = .init ∧ t.phase = .written .bind ∧
      t.bcnt = .written (BitVec.ofNat 16 s.cfg.bindCount)) ∨
    (i = .tick ∧ s.phase = .written .bind ∧ t.phase = .written .data ∧
      s.bcnt = .written 1 ∧ t.bcnt = .written 0)) ∧
  (∀ s t : State, exec .tick s = .next t → s.phase = .written .bind → s.bcnt = .written 1 →
    t.phase = .written .data) ∧
  (∀ s t : State, exec .init s = .next t →
    t.phase = .written .bind ∧ t.txa = .written (deriveTxa s.cfg s.env).1) ∧
  (∀ (i : Instr) (s t : State), exec i s = .next t → i ≠ .init → i ≠ .tick →
    t.phase = s.phase ∧ t.bcnt = s.bcnt)

/-- R250, R271, R302: DEINIT completes in every state with `SCHED_STOP` then `X_RESET`, clears `RUN`,
responds 01 when the transceiver's answer is success and 00 when it is failure, and leaves every other
register as it was. -/
def Obligations.DeinitStopsAndReports : Prop :=
  ∀ s : State,
    exec .deinit s = .next { s with
      run := false
      events := s.events ++ [.schedStop, .xReset]
      resp := s.resp ++ [if s.env.readResetOk.1 then 0x01 else 0x00]
      env := s.env.readResetOk.2 }

/-- R198, R321: a Bind-phase TICK leaves the arm state alone whatever the channels present, and does
not read them: changing every channel script changes nothing in what it does to the rest. -/
def Obligations.BindTicksIgnoreTheChannels : Prop :=
  ∀ (s t : State) (chan : Vector (List Word) 10), s.phase = .written .bind →
    exec .tick s = .next t →
    t.armed = s.armed ∧ t.aflags = s.aflags ∧ t.lsign = s.lsign ∧ t.env.chan = s.env.chan ∧
    exec .tick { s with env := { s.env with chan := chan } } =
      .next { t with env := { t.env with chan := chan } }

/-! ### The whole machine -/

/-- R22, R24, R28 to R30, R39, R61, R62, R112, R176: every step keeps the invariant. -/
def Obligations.StepKeepsTheInvariant : Prop :=
  ∀ s t : State, Inv s → step s = .next t → Inv t

/-- The invariant holds after reset, whatever the open parameters of `CFG` are (log entry 2). -/
def Obligations.ResetMeetsTheInvariant : Prop := Inv State.reset

/-- R22, R303: once an INIT has run, no operation faults, from any state of the invariant; before it
TICK is refused, ENC.BIND, ENC.DATA and ARM fault, and the pure operations, INIT, DEINIT, LL.CFG and
LL.SETADDR complete; LL.SEND completes as soon as both LL.CFG and LL.SETADDR have run. -/
def Obligations.OperationsFaultOnlyBeforeInit : Prop :=
  ∀ s : State, Inv s →
    (InSession s → ∀ (i : Instr) (f : Fault), exec i s ≠ .fault f) ∧
    (NoSession s →
      exec .tick s = .refused .tickWhileStopped ∧
      exec .encBind s = .fault (.readOfUnwritten .txa) ∧
      exec .encData s = .fault (.readOfUnwritten .lsign) ∧
      (∀ v, exec (.arm v) s = .fault (.readOfUnwritten .lsign)) ∧
      (∀ i : Instr, i.wellFormed = true →
        (IsPure i ∨ i = .init ∨ i = .deinit ∨ (∃ x, i = .llCfg x) ∨
          ∃ len a, i = .llSetaddr len a) → ∃ t, exec i s = .next t) ∧
      (∀ m, s.alen ≠ .unwritten → s.crcen ≠ .unwritten → ∃ t, exec (.llSend m) s = .next t))

/-- R166: INIT routes the frames to the public bind address with the CRC on, and TICK and DEINIT keep
the routing: bind address in Bind, `TXA` in Data, with the seed of the same address. -/
def Obligations.ServiceKeepsTheRouting : Prop :=
  ∀ (i : Instr) (s t : State), InService i → Inv s → (i = .init ∨ Routed s) →
    exec i s = .next t → Routed t

/-- R75: over all operations the event trace only grows at its end, and the same holds of a step. The
response port (R96) does too: that the model keeps it as a list that only grows is log entry 8. -/
def Obligations.OutputsOnlyGrow : Prop :=
  (∀ (i : Instr) (s t : State), exec i s = .next t → s.events <+: t.events ∧ s.resp <+: t.resp) ∧
  (∀ s t : State, step s = .next t → s.events <+: t.events ∧ s.resp <+: t.resp)

/-- R20, R36: each register is changed only by the operations the table of R20 names as its writers, the
ones that run inside TICK counted as TICK; `CFG` by none (R5), the command port by none. -/
def Obligations.RegistersHaveTheirWriters : Prop :=
  ∀ (i : Instr) (s t : State), exec i s = .next t →
    (((∃ len a, i = .llSetaddr len a) ∨ i = .init ∨ i = .tick) ∨
      (t.laddr = s.laddr ∧ t.alen = s.alen ∧ t.seed = s.seed)) ∧
    (((∃ x, i = .llCfg x) ∨ i = .init) ∨ t.crcen = s.crcen) ∧
    (((∃ m, i = .llSend m) ∨ i = .init ∨ i = .tick) ∨ t.pid = s.pid) ∧
    (i = .init ∨ t.txa = s.txa) ∧
    ((i = .init ∨ i = .tick) ∨ (t.phase = s.phase ∧ t.bcnt = s.bcnt ∧ t.txpwr = s.txpwr)) ∧
    (((∃ v, i = .arm v) ∨ i = .init ∨ i = .encData ∨ i = .tick) ∨
      (t.armed = s.armed ∧ t.aflags = s.aflags ∧ t.lsign = s.lsign)) ∧
    ((i = .init ∨ i = .deinit) ∨ t.run = s.run) ∧
    ((i = .encBind ∨ i = .encData ∨ i = .tick) ∨ (t.pkt = s.pkt ∧ t.plen = s.plen)) ∧
    (((∃ m, i = .llSend m) ∨ i = .tick) ∨ (t.frame = s.frame ∧ t.flen = s.flen)) ∧
    t.cfg = s.cfg ∧ t.cmdIn = s.cmdIn

/-- R73: the six pure operations read no register and write none: what they respond depends on their
operands and `CFG` alone, and the response port is all they change. -/
def Obligations.PureOperationsOnlyRespond : Prop :=
  ∀ (i : Instr) (c : Cfg), IsPure i → i.wellFormed = true →
    ∃ r : List Byte, ∀ s : State, s.cfg = c → exec i s = .next { s with resp := s.resp ++ r }

/-- R73: ENC.BIND, LL.CFG and LL.SETADDR are idempotent in their effect on the registers and emit or
respond again; LL.SEND is not: a second one submits a different frame. -/
def Obligations.RepeatedOperations : Prop :=
  (∀ (i : Instr) (s t : State), (i = .encBind ∨ (∃ x, i = .llCfg x) ∨ ∃ len a, i = .llSetaddr len a) →
    exec i s = .next t →
    ∃ u ev r, exec i t = .next u ∧ t.events = s.events ++ ev ∧ t.resp = s.resp ++ r ∧
      u = { t with events := t.events ++ ev, resp := t.resp ++ r }) ∧
  (∀ (m : List Byte) (s t u : State), exec (.llSend m) s = .next t → exec (.llSend m) t = .next u →
    u.frame ≠ t.frame)
end

