-- ==== Sys2Proof/Laws/Ops.lean ====
section
/-! SUPPORT. What the shared operations do, once each: register reads, outcomes, sequencing of effects,
storage reads and writes and their canonical form, input ports. -/

namespace Sys2Proof.Machine

/-! ### Registers, effects and outcomes -/

@[simp] theorem Reg.read_written {α : Type} (name : RegName) (v : α) :
    (Reg.written v).read name = .ok v := rfl

@[simp] theorem Reg.read_unwritten {α : Type} (name : RegName) :
    (Reg.unwritten : Reg α).read name = .error (.readOfUnwritten name) := rfl

/-- A register read succeeds with `v` exactly when the register holds `v`. -/
theorem Reg.read_eq_ok {α : Type} {name : RegName} {r : Reg α} {v : α} :
    r.read name = .ok v ↔ r = .written v := by
  cases r <;> simp

/-- A register read faults exactly when the register is unwritten, and names the register. -/
theorem Reg.read_eq_error {α : Type} {name : RegName} {r : Reg α} {f : Fault} :
    r.read name = .error f ↔ r = .unwritten ∧ f = .readOfUnwritten name := by
  cases r <;> simp [eq_comm]

@[simp] theorem Eff.outcome_ok (s : State) : Eff.outcome (.ok s) = .next s := rfl

@[simp] theorem Eff.outcome_error (f : Fault) : Eff.outcome (.error f) = .fault f := rfl

theorem Eff.outcome_eq_next {e : Eff State} {t : State} : e.outcome = .next t ↔ e = .ok t := by
  cases e <;> simp

theorem Eff.outcome_eq_fault {e : Eff State} {f : Fault} : e.outcome = .fault f ↔ e = .error f := by
  cases e <;> simp

theorem Eff.outcome_ne_refused {e : Eff State} {r : Refusal} : e.outcome ≠ .refused r := by
  cases e <;> simp

@[simp] theorem Eff.bind_ok {α β : Type} (a : α) (f : α → Eff β) :
    ((Except.ok a : Eff α) >>= f) = f a := rfl

@[simp] theorem Eff.bind_error {α β : Type} (e : Fault) (f : α → Eff β) :
    ((Except.error e : Eff α) >>= f) = .error e := rfl

@[simp] theorem Eff.pure_eq {α : Type} (a : α) : (pure a : Eff α) = .ok a := rfl

/-- Two completed effects agree exactly when their values do, the later one named first. -/
theorem Eff.ok_inj {α : Type} {a b : α} : (Except.ok a : Eff α) = .ok b ↔ b = a := by
  simp [eq_comm]

/-- A sequence completes exactly when its first part completes and the rest completes from there. -/
theorem Eff.bind_eq_ok {α β : Type} {x : Eff α} {f : α → Eff β} {b : β} :
    (x >>= f) = .ok b ↔ ∃ a, x = .ok a ∧ f a = .ok b := by
  cases x <;> simp

/-- A sequence faults exactly when its first part faults, or completes and the rest faults. -/
theorem Eff.bind_eq_error {α β : Type} {x : Eff α} {f : α → Eff β} {e : Fault} :
    (x >>= f) = .error e ↔ x = .error e ∨ ∃ a, x = .ok a ∧ f a = .error e := by
  cases x <;> simp

/-! ### Storage -/

@[simp] theorem Memory.read_nil (a : Nat) : Memory.read [] a = none := rfl

theorem Memory.read_cons (c : Host.Cell) (m : Memory) (a : Nat) :
    Memory.read (c :: m) a = if c.1 = a then some c.2 else Memory.read m a := rfl

/-- A written byte reads back. -/
@[simp] theorem Memory.read_write_same (m : Memory) (a : Nat) (b : Byte) :
    (m.write a b).read a = some b := by
  induction m with
  | nil => simp [Memory.write, Memory.read_cons]
  | cons c m ih =>
    unfold Memory.write
    split
    · simp [Memory.read_cons]
    · split
      · simp [Memory.read_cons]
      · next h => simp [Memory.read_cons, ih, Ne.symm h]

/-- A write leaves every other index alone. -/
theorem Memory.read_write_other {m : Memory} {a i : Nat} (b : Byte) (h : i ≠ a) :
    (m.write a b).read i = m.read i := by
  induction m with
  | nil => simp [Memory.write, Memory.read_cons, Ne.symm h]
  | cons c m ih =>
    unfold Memory.write
    split
    · simp [Memory.read_cons, Ne.symm h]
    · split
      · next h' => subst h'; simp [Memory.read_cons, Ne.symm h]
      · simp [Memory.read_cons, ih]

theorem Memory.wfFrom_mono {m : Memory} {j k : Nat} (h : j ≤ k) (hm : Memory.wfFrom k m = true) :
    Memory.wfFrom j m = true := by
  cases m with
  | nil => rfl
  | cons c m =>
    simp only [Memory.wfFrom, Bool.and_eq_true, decide_eq_true_eq] at hm ⊢
    exact ⟨by omega, hm.2⟩

theorem Memory.wfFrom_write {m : Memory} {k a : Nat} (b : Byte) (hm : Memory.wfFrom k m = true)
    (h : k ≤ a) : Memory.wfFrom k (m.write a b) = true := by
  induction m generalizing k with
  | nil => simp [Memory.write, Memory.wfFrom, h]
  | cons c m ih =>
    simp only [Memory.wfFrom, Bool.and_eq_true, decide_eq_true_eq] at hm
    unfold Memory.write
    split
    · simp only [Memory.wfFrom, Bool.and_eq_true, decide_eq_true_eq]
      exact ⟨h, by omega, hm.2⟩
    · split
      · next h' =>
        subst h'
        simp only [Memory.wfFrom, Bool.and_eq_true, decide_eq_true_eq]
        exact ⟨h, hm.2⟩
      · simp only [Memory.wfFrom, Bool.and_eq_true, decide_eq_true_eq]
        exact ⟨hm.1, ih hm.2 (by omega)⟩

/-- A write keeps the canonical form. -/
theorem Memory.wf_write {m : Memory} (a : Nat) (b : Byte) (hm : m.wf = true) :
    (m.write a b).wf = true :=
  Memory.wfFrom_write b hm (Nat.zero_le a)

/-- Consecutive writes keep the canonical form. -/
theorem Memory.wf_writeFrom {m : Memory} (a : Nat) (bs : List Byte) (hm : m.wf = true) :
    (m.writeFrom a bs).wf = true := by
  induction bs generalizing m a with
  | nil => exact hm
  | cons b bs ih => exact ih (a + 1) (Memory.wf_write a b hm)

/-- Reading after consecutive writes: the written byte inside the range, the old one outside. -/
theorem Memory.read_writeFrom (m : Memory) (a : Nat) (bs : List Byte) (i : Nat) :
    (m.writeFrom a bs).read i =
      if a ≤ i ∧ i < a + bs.length then bs[i - a]? else m.read i := by
  induction bs generalizing m a with
  | nil => simp [Memory.writeFrom]
  | cons b bs ih =>
    rw [Memory.writeFrom, ih]
    rcases Nat.lt_trichotomy i a with h | h | h
    · rw [if_neg (by omega), if_neg (by simp; omega), Memory.read_write_other _ (by omega)]
    · subst h
      rw [if_neg (by omega), if_pos (by simp)]
      simp
    · rw [Memory.read_write_other _ (by omega)]
      have e : i - a = (i - (a + 1)) + 1 := by omega
      simp only [List.length_cons, e, List.getElem?_cons_succ]
      congr 1
      exact propext ⟨fun _ => by omega, fun _ => by omega⟩

/-- A space that holds exactly `bs` reads byte `i` of `bs`, and nothing beyond it. -/
@[simp] theorem Memory.read_ofBytes (bs : List Byte) (i : Nat) :
    (Memory.ofBytes bs).read i = bs[i]? := by
  rw [Memory.ofBytes, Memory.read_writeFrom]
  by_cases h : i < bs.length
  · simp [h]
  · simp [h]

@[simp] theorem Memory.wf_nil : Memory.wf [] = true := rfl

@[simp] theorem Memory.wf_ofBytes (bs : List Byte) : (Memory.ofBytes bs).wf = true :=
  Memory.wf_writeFrom 0 bs Memory.wf_nil

theorem Memory.read_eq_none_of_lt {m : Memory} {k i : Nat} (hm : Memory.wfFrom k m = true)
    (h : i < k) : m.read i = none := by
  induction m generalizing k with
  | nil => rfl
  | cons c m ih =>
    simp only [Memory.wfFrom, Bool.and_eq_true, decide_eq_true_eq] at hm
    rw [Memory.read_cons, if_neg (by omega), ih hm.2 (by omega)]

theorem Memory.ext_from {k : Nat} {m m' : Memory} (hm : Memory.wfFrom k m = true)
    (hm' : Memory.wfFrom k m' = true) (h : ∀ i, m.read i = m'.read i) : m = m' := by
  induction m generalizing k m' with
  | nil =>
    cases m' with
    | nil => rfl
    | cons c m' => simpa [Memory.read_cons] using h c.1
  | cons c m ih =>
    cases m' with
    | nil => simpa [Memory.read_cons] using h c.1
    | cons c' m' =>
      simp only [Memory.wfFrom, Bool.and_eq_true, decide_eq_true_eq] at hm hm'
      have key : c.1 = c'.1 := by
        rcases Nat.lt_trichotomy c.1 c'.1 with hlt | heq | hlt
        · have := h c.1
          rw [Memory.read_cons, if_pos rfl, Memory.read_cons, if_neg (by omega),
            Memory.read_eq_none_of_lt hm'.2 (by omega)] at this
          cases this
        · exact heq
        · have := h c'.1
          rw [Memory.read_cons, if_neg (by omega), Memory.read_eq_none_of_lt hm.2 (by omega),
            Memory.read_cons, if_pos rfl] at this
          cases this
      have val : c.2 = c'.2 := by
        have := h c.1
        rw [Memory.read_cons, if_pos rfl, Memory.read_cons, if_pos key.symm] at this
        exact Option.some.inj this
      have tail : m = m' := by
        refine ih hm.2 (key ▸ hm'.2) fun i => ?_
        by_cases hi : i = c.1
        · rw [Memory.read_eq_none_of_lt hm.2 (by omega),
            Memory.read_eq_none_of_lt hm'.2 (by omega)]
        · have := h i
          rwa [Memory.read_cons, if_neg (Ne.symm hi), Memory.read_cons,
            if_neg (by omega)] at this
      rw [tail, Prod.ext key val]

/-- Equal readings in canonical form are equal data. -/
theorem Memory.ext_of_wf {m m' : Memory} (hm : m.wf = true) (hm' : m'.wf = true)
    (h : ∀ i, m.read i = m'.read i) : m = m' :=
  Memory.ext_from hm hm' h

/-- A space is determined by the bytes it was given. -/
theorem Memory.ofBytes_inj {bs bs' : List Byte} (h : Memory.ofBytes bs = Memory.ofBytes bs') :
    bs = bs' := by
  apply List.ext_getElem?
  intro i
  rw [← Memory.read_ofBytes, ← Memory.read_ofBytes, h]

/-- Writing an encoder's or the framer's bytes over any canonical space and dropping what lies at or
above their end leaves exactly `Memory.ofBytes` (R61, R62). -/
theorem Memory.eq_ofBytes {m : Memory} {bs : List Byte} (hm : m.wf = true)
    (h : ∀ i, m.read i = bs[i]?) : m = Memory.ofBytes bs :=
  Memory.ext_of_wf hm (Memory.wf_ofBytes bs) fun i => by rw [h, Memory.read_ofBytes]

theorem Memory.readReg_eq_ok {m : Memory} {name : Nat → RegName} {i : Nat} {b : Byte} :
    m.readReg name i = .ok b ↔ m.read i = some b := by
  unfold Memory.readReg
  cases m.read i <;> simp

theorem Memory.readReg_eq_error {m : Memory} {name : Nat → RegName} {i : Nat} {f : Fault} :
    m.readReg name i = .error f ↔ m.read i = none ∧ f = .readOfUnwritten (name i) := by
  unfold Memory.readReg
  cases m.read i <;> simp [eq_comm]

/-! ### Scripts -/

@[simp] theorem scriptValue_nil {α : Type} (free : α) : scriptValue free [] = free := rfl

@[simp] theorem scriptValue_cons {α : Type} (free v : α) (vs : List α) :
    scriptValue free (v :: vs) = v := rfl

@[simp] theorem scriptNext_nil {α : Type} : scriptNext ([] : List α) = [] := rfl

@[simp] theorem scriptNext_held {α : Type} (v : α) : scriptNext [v] = [v] := rfl

@[simp] theorem scriptNext_cons {α : Type} (v w : α) (vs : List α) :
    scriptNext (v :: w :: vs) = w :: vs := rfl

end Sys2Proof.Machine
end

