-- ==== Sys2Proof/Laws/State.lean ====
section
/-! SUPPORT. One lemma per field per named update of the state, true by `rfl`, so that no later proof
unfolds a record update. -/

namespace Sys2Proof.Machine

/-- The argument of `XW_TXADDR`: five times the preamble byte (R165). -/
abbrev preambleField (c : Cfg) (len : Byte) (a : Addr) : List Byte :=
  [preambleByte c len a, preambleByte c len a, preambleByte c len a, preambleByte c len a,
   preambleByte c len a]

/-- Two states that agree in every field are equal. -/
@[ext] theorem State.ext_fields {s t : State}
    (cfg : s.cfg = t.cfg) (laddr : s.laddr = t.laddr) (alen : s.alen = t.alen)
    (seed : s.seed = t.seed) (crcen : s.crcen = t.crcen) (pid : s.pid = t.pid) (txa : s.txa = t.txa)
    (phase : s.phase = t.phase) (bcnt : s.bcnt = t.bcnt) (armed : s.armed = t.armed)
    (aflags : s.aflags = t.aflags) (lsign : s.lsign = t.lsign) (txpwr : s.txpwr = t.txpwr)
    (run : s.run = t.run) (pkt : s.pkt = t.pkt) (plen : s.plen = t.plen) (frame : s.frame = t.frame)
    (flen : s.flen = t.flen) (cmdIn : s.cmdIn = t.cmdIn) (resp : s.resp = t.resp)
    (events : s.events = t.events) (env : s.env = t.env) :
    s = t := by
  cases s
  cases t
  simp_all

/-! ### `withEnv` -/

@[simp] theorem withEnv_cfg (s : State) (e : Env) : (s.withEnv e).cfg = s.cfg := rfl
@[simp] theorem withEnv_laddr (s : State) (e : Env) : (s.withEnv e).laddr = s.laddr := rfl
@[simp] theorem withEnv_alen (s : State) (e : Env) : (s.withEnv e).alen = s.alen := rfl
@[simp] theorem withEnv_seed (s : State) (e : Env) : (s.withEnv e).seed = s.seed := rfl
@[simp] theorem withEnv_crcen (s : State) (e : Env) : (s.withEnv e).crcen = s.crcen := rfl
@[simp] theorem withEnv_pid (s : State) (e : Env) : (s.withEnv e).pid = s.pid := rfl
@[simp] theorem withEnv_txa (s : State) (e : Env) : (s.withEnv e).txa = s.txa := rfl
@[simp] theorem withEnv_phase (s : State) (e : Env) : (s.withEnv e).phase = s.phase := rfl
@[simp] theorem withEnv_bcnt (s : State) (e : Env) : (s.withEnv e).bcnt = s.bcnt := rfl
@[simp] theorem withEnv_armed (s : State) (e : Env) : (s.withEnv e).armed = s.armed := rfl
@[simp] theorem withEnv_aflags (s : State) (e : Env) : (s.withEnv e).aflags = s.aflags := rfl
@[simp] theorem withEnv_lsign (s : State) (e : Env) : (s.withEnv e).lsign = s.lsign := rfl
@[simp] theorem withEnv_txpwr (s : State) (e : Env) : (s.withEnv e).txpwr = s.txpwr := rfl
@[simp] theorem withEnv_run (s : State) (e : Env) : (s.withEnv e).run = s.run := rfl
@[simp] theorem withEnv_pkt (s : State) (e : Env) : (s.withEnv e).pkt = s.pkt := rfl
@[simp] theorem withEnv_plen (s : State) (e : Env) : (s.withEnv e).plen = s.plen := rfl
@[simp] theorem withEnv_frame (s : State) (e : Env) : (s.withEnv e).frame = s.frame := rfl
@[simp] theorem withEnv_flen (s : State) (e : Env) : (s.withEnv e).flen = s.flen := rfl
@[simp] theorem withEnv_cmdIn (s : State) (e : Env) : (s.withEnv e).cmdIn = s.cmdIn := rfl
@[simp] theorem withEnv_resp (s : State) (e : Env) : (s.withEnv e).resp = s.resp := rfl
@[simp] theorem withEnv_events (s : State) (e : Env) : (s.withEnv e).events = s.events := rfl
@[simp] theorem withEnv_env (s : State) (e : Env) : (s.withEnv e).env = e := rfl

/-! ### `emit` -/

@[simp] theorem emit_cfg (s : State) (e : Event) : (s.emit e).cfg = s.cfg := rfl
@[simp] theorem emit_laddr (s : State) (e : Event) : (s.emit e).laddr = s.laddr := rfl
@[simp] theorem emit_alen (s : State) (e : Event) : (s.emit e).alen = s.alen := rfl
@[simp] theorem emit_seed (s : State) (e : Event) : (s.emit e).seed = s.seed := rfl
@[simp] theorem emit_crcen (s : State) (e : Event) : (s.emit e).crcen = s.crcen := rfl
@[simp] theorem emit_pid (s : State) (e : Event) : (s.emit e).pid = s.pid := rfl
@[simp] theorem emit_txa (s : State) (e : Event) : (s.emit e).txa = s.txa := rfl
@[simp] theorem emit_phase (s : State) (e : Event) : (s.emit e).phase = s.phase := rfl
@[simp] theorem emit_bcnt (s : State) (e : Event) : (s.emit e).bcnt = s.bcnt := rfl
@[simp] theorem emit_armed (s : State) (e : Event) : (s.emit e).armed = s.armed := rfl
@[simp] theorem emit_aflags (s : State) (e : Event) : (s.emit e).aflags = s.aflags := rfl
@[simp] theorem emit_lsign (s : State) (e : Event) : (s.emit e).lsign = s.lsign := rfl
@[simp] theorem emit_txpwr (s : State) (e : Event) : (s.emit e).txpwr = s.txpwr := rfl
@[simp] theorem emit_run (s : State) (e : Event) : (s.emit e).run = s.run := rfl
@[simp] theorem emit_pkt (s : State) (e : Event) : (s.emit e).pkt = s.pkt := rfl
@[simp] theorem emit_plen (s : State) (e : Event) : (s.emit e).plen = s.plen := rfl
@[simp] theorem emit_frame (s : State) (e : Event) : (s.emit e).frame = s.frame := rfl
@[simp] theorem emit_flen (s : State) (e : Event) : (s.emit e).flen = s.flen := rfl
@[simp] theorem emit_cmdIn (s : State) (e : Event) : (s.emit e).cmdIn = s.cmdIn := rfl
@[simp] theorem emit_resp (s : State) (e : Event) : (s.emit e).resp = s.resp := rfl
@[simp] theorem emit_events (s : State) (e : Event) : (s.emit e).events = s.events ++ [e] := rfl
@[simp] theorem emit_env (s : State) (e : Event) : (s.emit e).env = s.env := rfl

/-! ### `respond` -/

@[simp] theorem respond_cfg (s : State) (bs : List Byte) : (s.respond bs).cfg = s.cfg := rfl
@[simp] theorem respond_laddr (s : State) (bs : List Byte) : (s.respond bs).laddr = s.laddr := rfl
@[simp] theorem respond_alen (s : State) (bs : List Byte) : (s.respond bs).alen = s.alen := rfl
@[simp] theorem respond_seed (s : State) (bs : List Byte) : (s.respond bs).seed = s.seed := rfl
@[simp] theorem respond_crcen (s : State) (bs : List Byte) : (s.respond bs).crcen = s.crcen := rfl
@[simp] theorem respond_pid (s : State) (bs : List Byte) : (s.respond bs).pid = s.pid := rfl
@[simp] theorem respond_txa (s : State) (bs : List Byte) : (s.respond bs).txa = s.txa := rfl
@[simp] theorem respond_phase (s : State) (bs : List Byte) : (s.respond bs).phase = s.phase := rfl
@[simp] theorem respond_bcnt (s : State) (bs : List Byte) : (s.respond bs).bcnt = s.bcnt := rfl
@[simp] theorem respond_armed (s : State) (bs : List Byte) : (s.respond bs).armed = s.armed := rfl
@[simp] theorem respond_aflags (s : State) (bs : List Byte) :
    (s.respond bs).aflags = s.aflags := rfl
@[simp] theorem respond_lsign (s : State) (bs : List Byte) : (s.respond bs).lsign = s.lsign := rfl
@[simp] theorem respond_txpwr (s : State) (bs : List Byte) : (s.respond bs).txpwr = s.txpwr := rfl
@[simp] theorem respond_run (s : State) (bs : List Byte) : (s.respond bs).run = s.run := rfl
@[simp] theorem respond_pkt (s : State) (bs : List Byte) : (s.respond bs).pkt = s.pkt := rfl
@[simp] theorem respond_plen (s : State) (bs : List Byte) : (s.respond bs).plen = s.plen := rfl
@[simp] theorem respond_frame (s : State) (bs : List Byte) : (s.respond bs).frame = s.frame := rfl
@[simp] theorem respond_flen (s : State) (bs : List Byte) : (s.respond bs).flen = s.flen := rfl
@[simp] theorem respond_cmdIn (s : State) (bs : List Byte) : (s.respond bs).cmdIn = s.cmdIn := rfl
@[simp] theorem respond_resp (s : State) (bs : List Byte) :
    (s.respond bs).resp = s.resp ++ bs := rfl
@[simp] theorem respond_events (s : State) (bs : List Byte) :
    (s.respond bs).events = s.events := rfl
@[simp] theorem respond_env (s : State) (bs : List Byte) : (s.respond bs).env = s.env := rfl

/-! ### `configure` -/

@[simp] theorem configure_cfg (s : State) (flags : Byte) : (s.configure flags).cfg = s.cfg := rfl
@[simp] theorem configure_laddr (s : State) (flags : Byte) :
    (s.configure flags).laddr = s.laddr := rfl
@[simp] theorem configure_alen (s : State) (flags : Byte) : (s.configure flags).alen = s.alen := rfl
@[simp] theorem configure_seed (s : State) (flags : Byte) : (s.configure flags).seed = s.seed := rfl
@[simp] theorem configure_crcen (s : State) (flags : Byte) :
    (s.configure flags).crcen = .written (crcEnable s.cfg flags) := rfl
@[simp] theorem configure_pid (s : State) (flags : Byte) : (s.configure flags).pid = s.pid := rfl
@[simp] theorem configure_txa (s : State) (flags : Byte) : (s.configure flags).txa = s.txa := rfl
@[simp] theorem configure_phase (s : State) (flags : Byte) :
    (s.configure flags).phase = s.phase := rfl
@[simp] theorem configure_bcnt (s : State) (flags : Byte) : (s.configure flags).bcnt = s.bcnt := rfl
@[simp] theorem configure_armed (s : State) (flags : Byte) :
    (s.configure flags).armed = s.armed := rfl
@[simp] theorem configure_aflags (s : State) (flags : Byte) :
    (s.configure flags).aflags = s.aflags := rfl
@[simp] theorem configure_lsign (s : State) (flags : Byte) :
    (s.configure flags).lsign = s.lsign := rfl
@[simp] theorem configure_txpwr (s : State) (flags : Byte) :
    (s.configure flags).txpwr = s.txpwr := rfl
@[simp] theorem configure_run (s : State) (flags : Byte) : (s.configure flags).run = s.run := rfl
@[simp] theorem configure_pkt (s : State) (flags : Byte) : (s.configure flags).pkt = s.pkt := rfl
@[simp] theorem configure_plen (s : State) (flags : Byte) : (s.configure flags).plen = s.plen := rfl
@[simp] theorem configure_frame (s : State) (flags : Byte) :
    (s.configure flags).frame = s.frame := rfl
@[simp] theorem configure_flen (s : State) (flags : Byte) : (s.configure flags).flen = s.flen := rfl
@[simp] theorem configure_cmdIn (s : State) (flags : Byte) :
    (s.configure flags).cmdIn = s.cmdIn := rfl
@[simp] theorem configure_resp (s : State) (flags : Byte) : (s.configure flags).resp = s.resp := rfl
@[simp] theorem configure_events (s : State) (flags : Byte) :
    (s.configure flags).events = s.events ++ [.xwCfg (modeBits s.cfg flags)] := rfl
@[simp] theorem configure_env (s : State) (flags : Byte) : (s.configure flags).env = s.env := rfl

/-! ### `setAddress` -/

@[simp] theorem setAddress_cfg (s : State) (len : Byte) (a : Addr) :
    (s.setAddress len a).cfg = s.cfg := rfl
@[simp] theorem setAddress_laddr (s : State) (len : Byte) (a : Addr) :
    (s.setAddress len a).laddr = Memory.ofBytes (usedAddr len a) := rfl
@[simp] theorem setAddress_alen (s : State) (len : Byte) (a : Addr) :
    (s.setAddress len a).alen = .written (BitVec.ofNat 3 (clampLen len)) := rfl
@[simp] theorem setAddress_seed (s : State) (len : Byte) (a : Addr) :
    (s.setAddress len a).seed = .written (crcSeedOf len a) := rfl
@[simp] theorem setAddress_crcen (s : State) (len : Byte) (a : Addr) :
    (s.setAddress len a).crcen = s.crcen := rfl
@[simp] theorem setAddress_pid (s : State) (len : Byte) (a : Addr) :
    (s.setAddress len a).pid = s.pid := rfl
@[simp] theorem setAddress_txa (s : State) (len : Byte) (a : Addr) :
    (s.setAddress len a).txa = s.txa := rfl
@[simp] theorem setAddress_phase (s : State) (len : Byte) (a : Addr) :
    (s.setAddress len a).phase = s.phase := rfl
@[simp] theorem setAddress_bcnt (s : State) (len : Byte) (a : Addr) :
    (s.setAddress len a).bcnt = s.bcnt := rfl
@[simp] theorem setAddress_armed (s : State) (len : Byte) (a : Addr) :
    (s.setAddress len a).armed = s.armed := rfl
@[simp] theorem setAddress_aflags (s : State) (len : Byte) (a : Addr) :
    (s.setAddress len a).aflags = s.aflags := rfl
@[simp] theorem setAddress_lsign (s : State) (len : Byte) (a : Addr) :
    (s.setAddress len a).lsign = s.lsign := rfl
@[simp] theorem setAddress_txpwr (s : State) (len : Byte) (a : Addr) :
    (s.setAddress len a).txpwr = s.txpwr := rfl
@[simp] theorem setAddress_run (s : State) (len : Byte) (a : Addr) :
    (s.setAddress len a).run = s.run := rfl
@[simp] theorem setAddress_pkt (s : State) (len : Byte) (a : Addr) :
    (s.setAddress len a).pkt = s.pkt := rfl
@[simp] theorem setAddress_plen (s : State) (len : Byte) (a : Addr) :
    (s.setAddress len a).plen = s.plen := rfl
@[simp] theorem setAddress_frame (s : State) (len : Byte) (a : Addr) :
    (s.setAddress len a).frame = s.frame := rfl
@[simp] theorem setAddress_flen (s : State) (len : Byte) (a : Addr) :
    (s.setAddress len a).flen = s.flen := rfl
@[simp] theorem setAddress_cmdIn (s : State) (len : Byte) (a : Addr) :
    (s.setAddress len a).cmdIn = s.cmdIn := rfl
@[simp] theorem setAddress_resp (s : State) (len : Byte) (a : Addr) :
    (s.setAddress len a).resp = s.resp := rfl
@[simp] theorem setAddress_events (s : State) (len : Byte) (a : Addr) :
    (s.setAddress len a).events = s.events ++ [.xwTxaddr (preambleField s.cfg len a)] := rfl
@[simp] theorem setAddress_env (s : State) (len : Byte) (a : Addr) :
    (s.setAddress len a).env = s.env := rfl

/-! ### `submit` -/

@[simp] theorem submit_cfg (s : State) (f : List Byte) : (s.submit f).cfg = s.cfg := rfl
@[simp] theorem submit_laddr (s : State) (f : List Byte) : (s.submit f).laddr = s.laddr := rfl
@[simp] theorem submit_alen (s : State) (f : List Byte) : (s.submit f).alen = s.alen := rfl
@[simp] theorem submit_seed (s : State) (f : List Byte) : (s.submit f).seed = s.seed := rfl
@[simp] theorem submit_crcen (s : State) (f : List Byte) : (s.submit f).crcen = s.crcen := rfl
@[simp] theorem submit_pid (s : State) (f : List Byte) : (s.submit f).pid = s.pid + 1 := rfl
@[simp] theorem submit_txa (s : State) (f : List Byte) : (s.submit f).txa = s.txa := rfl
@[simp] theorem submit_phase (s : State) (f : List Byte) : (s.submit f).phase = s.phase := rfl
@[simp] theorem submit_bcnt (s : State) (f : List Byte) : (s.submit f).bcnt = s.bcnt := rfl
@[simp] theorem submit_armed (s : State) (f : List Byte) : (s.submit f).armed = s.armed := rfl
@[simp] theorem submit_aflags (s : State) (f : List Byte) : (s.submit f).aflags = s.aflags := rfl
@[simp] theorem submit_lsign (s : State) (f : List Byte) : (s.submit f).lsign = s.lsign := rfl
@[simp] theorem submit_txpwr (s : State) (f : List Byte) : (s.submit f).txpwr = s.txpwr := rfl
@[simp] theorem submit_run (s : State) (f : List Byte) : (s.submit f).run = s.run := rfl
@[simp] theorem submit_pkt (s : State) (f : List Byte) : (s.submit f).pkt = s.pkt := rfl
@[simp] theorem submit_plen (s : State) (f : List Byte) : (s.submit f).plen = s.plen := rfl
@[simp] theorem submit_frame (s : State) (f : List Byte) :
    (s.submit f).frame = Memory.ofBytes f := rfl
@[simp] theorem submit_flen (s : State) (f : List Byte) :
    (s.submit f).flen = .written (BitVec.ofNat 5 f.length) := rfl
@[simp] theorem submit_cmdIn (s : State) (f : List Byte) : (s.submit f).cmdIn = s.cmdIn := rfl
@[simp] theorem submit_resp (s : State) (f : List Byte) : (s.submit f).resp = s.resp := rfl
@[simp] theorem submit_events (s : State) (f : List Byte) :
    (s.submit f).events = s.events ++ [.xwPayload f] ++ [.xwPayload f] := rfl
@[simp] theorem submit_env (s : State) (f : List Byte) : (s.submit f).env = s.env := rfl

/-! ### `armEdge` -/

@[simp] theorem armEdge_cfg (s : State) (b : Bool) (x : Byte) : (s.armEdge b x).cfg = s.cfg := rfl
@[simp] theorem armEdge_laddr (s : State) (b : Bool) (x : Byte) :
    (s.armEdge b x).laddr = s.laddr := rfl
@[simp] theorem armEdge_alen (s : State) (b : Bool) (x : Byte) :
    (s.armEdge b x).alen = s.alen := rfl
@[simp] theorem armEdge_seed (s : State) (b : Bool) (x : Byte) :
    (s.armEdge b x).seed = s.seed := rfl
@[simp] theorem armEdge_crcen (s : State) (b : Bool) (x : Byte) :
    (s.armEdge b x).crcen = s.crcen := rfl
@[simp] theorem armEdge_pid (s : State) (b : Bool) (x : Byte) : (s.armEdge b x).pid = s.pid := rfl
@[simp] theorem armEdge_txa (s : State) (b : Bool) (x : Byte) : (s.armEdge b x).txa = s.txa := rfl
@[simp] theorem armEdge_phase (s : State) (b : Bool) (x : Byte) :
    (s.armEdge b x).phase = s.phase := rfl
@[simp] theorem armEdge_bcnt (s : State) (b : Bool) (x : Byte) :
    (s.armEdge b x).bcnt = s.bcnt := rfl
@[simp] theorem armEdge_armed (s : State) (b : Bool) (x : Byte) :
    (s.armEdge b x).armed = .written b := rfl
@[simp] theorem armEdge_aflags (s : State) (b : Bool) (x : Byte) :
    (s.armEdge b x).aflags = .written (edgeFlags s.cfg b x) := rfl
@[simp] theorem armEdge_lsign (s : State) (b : Bool) (x : Byte) :
    (s.armEdge b x).lsign = .written b := rfl
@[simp] theorem armEdge_txpwr (s : State) (b : Bool) (x : Byte) :
    (s.armEdge b x).txpwr = s.txpwr := rfl
@[simp] theorem armEdge_run (s : State) (b : Bool) (x : Byte) : (s.armEdge b x).run = s.run := rfl
@[simp] theorem armEdge_pkt (s : State) (b : Bool) (x : Byte) : (s.armEdge b x).pkt = s.pkt := rfl
@[simp] theorem armEdge_plen (s : State) (b : Bool) (x : Byte) :
    (s.armEdge b x).plen = s.plen := rfl
@[simp] theorem armEdge_frame (s : State) (b : Bool) (x : Byte) :
    (s.armEdge b x).frame = s.frame := rfl
@[simp] theorem armEdge_flen (s : State) (b : Bool) (x : Byte) :
    (s.armEdge b x).flen = s.flen := rfl
@[simp] theorem armEdge_cmdIn (s : State) (b : Bool) (x : Byte) :
    (s.armEdge b x).cmdIn = s.cmdIn := rfl
@[simp] theorem armEdge_resp (s : State) (b : Bool) (x : Byte) :
    (s.armEdge b x).resp = s.resp := rfl
@[simp] theorem armEdge_events (s : State) (b : Bool) (x : Byte) :
    (s.armEdge b x).events = s.events := rfl
@[simp] theorem armEdge_env (s : State) (b : Bool) (x : Byte) : (s.armEdge b x).env = s.env := rfl

/-! ### `storePacket` -/

@[simp] theorem storePacket_cfg (s : State) (p : List Byte) : (s.storePacket p).cfg = s.cfg := rfl
@[simp] theorem storePacket_laddr (s : State) (p : List Byte) :
    (s.storePacket p).laddr = s.laddr := rfl
@[simp] theorem storePacket_alen (s : State) (p : List Byte) :
    (s.storePacket p).alen = s.alen := rfl
@[simp] theorem storePacket_seed (s : State) (p : List Byte) :
    (s.storePacket p).seed = s.seed := rfl
@[simp] theorem storePacket_crcen (s : State) (p : List Byte) :
    (s.storePacket p).crcen = s.crcen := rfl
@[simp] theorem storePacket_pid (s : State) (p : List Byte) : (s.storePacket p).pid = s.pid := rfl
@[simp] theorem storePacket_txa (s : State) (p : List Byte) : (s.storePacket p).txa = s.txa := rfl
@[simp] theorem storePacket_phase (s : State) (p : List Byte) :
    (s.storePacket p).phase = s.phase := rfl
@[simp] theorem storePacket_bcnt (s : State) (p : List Byte) :
    (s.storePacket p).bcnt = s.bcnt := rfl
@[simp] theorem storePacket_armed (s : State) (p : List Byte) :
    (s.storePacket p).armed = s.armed := rfl
@[simp] theorem storePacket_aflags (s : State) (p : List Byte) :
    (s.storePacket p).aflags = s.aflags := rfl
@[simp] theorem storePacket_lsign (s : State) (p : List Byte) :
    (s.storePacket p).lsign = s.lsign := rfl
@[simp] theorem storePacket_txpwr (s : State) (p : List Byte) :
    (s.storePacket p).txpwr = s.txpwr := rfl
@[simp] theorem storePacket_run (s : State) (p : List Byte) : (s.storePacket p).run = s.run := rfl
@[simp] theorem storePacket_pkt (s : State) (p : List Byte) :
    (s.storePacket p).pkt = Memory.ofBytes p := rfl
@[simp] theorem storePacket_plen (s : State) (p : List Byte) :
    (s.storePacket p).plen = .written (BitVec.ofNat 4 p.length) := rfl
@[simp] theorem storePacket_frame (s : State) (p : List Byte) :
    (s.storePacket p).frame = s.frame := rfl
@[simp] theorem storePacket_flen (s : State) (p : List Byte) :
    (s.storePacket p).flen = s.flen := rfl
@[simp] theorem storePacket_cmdIn (s : State) (p : List Byte) :
    (s.storePacket p).cmdIn = s.cmdIn := rfl
@[simp] theorem storePacket_resp (s : State) (p : List Byte) :
    (s.storePacket p).resp = s.resp := rfl
@[simp] theorem storePacket_events (s : State) (p : List Byte) :
    (s.storePacket p).events = s.events := rfl
@[simp] theorem storePacket_env (s : State) (p : List Byte) : (s.storePacket p).env = s.env := rfl

/-! ### `stopDriver` -/

@[simp] theorem stopDriver_cfg (s : State) : (s.stopDriver).cfg = s.cfg := rfl
@[simp] theorem stopDriver_laddr (s : State) : (s.stopDriver).laddr = s.laddr := rfl
@[simp] theorem stopDriver_alen (s : State) : (s.stopDriver).alen = s.alen := rfl
@[simp] theorem stopDriver_seed (s : State) : (s.stopDriver).seed = s.seed := rfl
@[simp] theorem stopDriver_crcen (s : State) : (s.stopDriver).crcen = s.crcen := rfl
@[simp] theorem stopDriver_pid (s : State) : (s.stopDriver).pid = s.pid := rfl
@[simp] theorem stopDriver_txa (s : State) : (s.stopDriver).txa = s.txa := rfl
@[simp] theorem stopDriver_phase (s : State) : (s.stopDriver).phase = s.phase := rfl
@[simp] theorem stopDriver_bcnt (s : State) : (s.stopDriver).bcnt = s.bcnt := rfl
@[simp] theorem stopDriver_armed (s : State) : (s.stopDriver).armed = s.armed := rfl
@[simp] theorem stopDriver_aflags (s : State) : (s.stopDriver).aflags = s.aflags := rfl
@[simp] theorem stopDriver_lsign (s : State) : (s.stopDriver).lsign = s.lsign := rfl
@[simp] theorem stopDriver_txpwr (s : State) : (s.stopDriver).txpwr = s.txpwr := rfl
@[simp] theorem stopDriver_run (s : State) : (s.stopDriver).run = false := rfl
@[simp] theorem stopDriver_pkt (s : State) : (s.stopDriver).pkt = s.pkt := rfl
@[simp] theorem stopDriver_plen (s : State) : (s.stopDriver).plen = s.plen := rfl
@[simp] theorem stopDriver_frame (s : State) : (s.stopDriver).frame = s.frame := rfl
@[simp] theorem stopDriver_flen (s : State) : (s.stopDriver).flen = s.flen := rfl
@[simp] theorem stopDriver_cmdIn (s : State) : (s.stopDriver).cmdIn = s.cmdIn := rfl
@[simp] theorem stopDriver_resp (s : State) : (s.stopDriver).resp = s.resp := rfl
@[simp] theorem stopDriver_events (s : State) :
    (s.stopDriver).events = s.events ++ [.schedStop] := rfl
@[simp] theorem stopDriver_env (s : State) : (s.stopDriver).env = s.env := rfl

/-! ### `newSession` -/

@[simp] theorem newSession_cfg (s : State) (a : Addr) : (s.newSession a).cfg = s.cfg := rfl
@[simp] theorem newSession_laddr (s : State) (a : Addr) : (s.newSession a).laddr = s.laddr := rfl
@[simp] theorem newSession_alen (s : State) (a : Addr) : (s.newSession a).alen = s.alen := rfl
@[simp] theorem newSession_seed (s : State) (a : Addr) : (s.newSession a).seed = s.seed := rfl
@[simp] theorem newSession_crcen (s : State) (a : Addr) : (s.newSession a).crcen = s.crcen := rfl
@[simp] theorem newSession_pid (s : State) (a : Addr) : (s.newSession a).pid = 0 := rfl
@[simp] theorem newSession_txa (s : State) (a : Addr) : (s.newSession a).txa = .written a := rfl
@[simp] theorem newSession_phase (s : State) (a : Addr) :
    (s.newSession a).phase = .written .bind := rfl
@[simp] theorem newSession_bcnt (s : State) (a : Addr) :
    (s.newSession a).bcnt = .written (BitVec.ofNat 16 s.cfg.bindCount) := rfl
@[simp] theorem newSession_armed (s : State) (a : Addr) :
    (s.newSession a).armed = .written false := rfl
@[simp] theorem newSession_aflags (s : State) (a : Addr) :
    (s.newSession a).aflags = .written 0 := rfl
@[simp] theorem newSession_lsign (s : State) (a : Addr) :
    (s.newSession a).lsign = .written false := rfl
@[simp] theorem newSession_txpwr (s : State) (a : Addr) : (s.newSession a).txpwr = s.txpwr := rfl
@[simp] theorem newSession_run (s : State) (a : Addr) : (s.newSession a).run = s.run := rfl
@[simp] theorem newSession_pkt (s : State) (a : Addr) : (s.newSession a).pkt = s.pkt := rfl
@[simp] theorem newSession_plen (s : State) (a : Addr) : (s.newSession a).plen = s.plen := rfl
@[simp] theorem newSession_frame (s : State) (a : Addr) : (s.newSession a).frame = s.frame := rfl
@[simp] theorem newSession_flen (s : State) (a : Addr) : (s.newSession a).flen = s.flen := rfl
@[simp] theorem newSession_cmdIn (s : State) (a : Addr) : (s.newSession a).cmdIn = s.cmdIn := rfl
@[simp] theorem newSession_resp (s : State) (a : Addr) : (s.newSession a).resp = s.resp := rfl
@[simp] theorem newSession_events (s : State) (a : Addr) : (s.newSession a).events = s.events := rfl
@[simp] theorem newSession_env (s : State) (a : Addr) : (s.newSession a).env = s.env := rfl

/-! ### `setPower` -/

@[simp] theorem setPower_cfg (s : State) (p : Byte) : (s.setPower p).cfg = s.cfg := rfl
@[simp] theorem setPower_laddr (s : State) (p : Byte) : (s.setPower p).laddr = s.laddr := rfl
@[simp] theorem setPower_alen (s : State) (p : Byte) : (s.setPower p).alen = s.alen := rfl
@[simp] theorem setPower_seed (s : State) (p : Byte) : (s.setPower p).seed = s.seed := rfl
@[simp] theorem setPower_crcen (s : State) (p : Byte) : (s.setPower p).crcen = s.crcen := rfl
@[simp] theorem setPower_pid (s : State) (p : Byte) : (s.setPower p).pid = s.pid := rfl
@[simp] theorem setPower_txa (s : State) (p : Byte) : (s.setPower p).txa = s.txa := rfl
@[simp] theorem setPower_phase (s : State) (p : Byte) : (s.setPower p).phase = s.phase := rfl
@[simp] theorem setPower_bcnt (s : State) (p : Byte) : (s.setPower p).bcnt = s.bcnt := rfl
@[simp] theorem setPower_armed (s : State) (p : Byte) : (s.setPower p).armed = s.armed := rfl
@[simp] theorem setPower_aflags (s : State) (p : Byte) : (s.setPower p).aflags = s.aflags := rfl
@[simp] theorem setPower_lsign (s : State) (p : Byte) : (s.setPower p).lsign = s.lsign := rfl
@[simp] theorem setPower_txpwr (s : State) (p : Byte) : (s.setPower p).txpwr = .written p := rfl
@[simp] theorem setPower_run (s : State) (p : Byte) : (s.setPower p).run = s.run := rfl
@[simp] theorem setPower_pkt (s : State) (p : Byte) : (s.setPower p).pkt = s.pkt := rfl
@[simp] theorem setPower_plen (s : State) (p : Byte) : (s.setPower p).plen = s.plen := rfl
@[simp] theorem setPower_frame (s : State) (p : Byte) : (s.setPower p).frame = s.frame := rfl
@[simp] theorem setPower_flen (s : State) (p : Byte) : (s.setPower p).flen = s.flen := rfl
@[simp] theorem setPower_cmdIn (s : State) (p : Byte) : (s.setPower p).cmdIn = s.cmdIn := rfl
@[simp] theorem setPower_resp (s : State) (p : Byte) : (s.setPower p).resp = s.resp := rfl
@[simp] theorem setPower_events (s : State) (p : Byte) :
    (s.setPower p).events = s.events ++ [.xSetpower p] := rfl
@[simp] theorem setPower_env (s : State) (p : Byte) : (s.setPower p).env = s.env := rfl

/-! ### `startDriver` -/

@[simp] theorem startDriver_cfg (s : State) : (s.startDriver).cfg = s.cfg := rfl
@[simp] theorem startDriver_laddr (s : State) : (s.startDriver).laddr = s.laddr := rfl
@[simp] theorem startDriver_alen (s : State) : (s.startDriver).alen = s.alen := rfl
@[simp] theorem startDriver_seed (s : State) : (s.startDriver).seed = s.seed := rfl
@[simp] theorem startDriver_crcen (s : State) : (s.startDriver).crcen = s.crcen := rfl
@[simp] theorem startDriver_pid (s : State) : (s.startDriver).pid = s.pid := rfl
@[simp] theorem startDriver_txa (s : State) : (s.startDriver).txa = s.txa := rfl
@[simp] theorem startDriver_phase (s : State) : (s.startDriver).phase = s.phase := rfl
@[simp] theorem startDriver_bcnt (s : State) : (s.startDriver).bcnt = s.bcnt := rfl
@[simp] theorem startDriver_armed (s : State) : (s.startDriver).armed = s.armed := rfl
@[simp] theorem startDriver_aflags (s : State) : (s.startDriver).aflags = s.aflags := rfl
@[simp] theorem startDriver_lsign (s : State) : (s.startDriver).lsign = s.lsign := rfl
@[simp] theorem startDriver_txpwr (s : State) : (s.startDriver).txpwr = s.txpwr := rfl
@[simp] theorem startDriver_run (s : State) : (s.startDriver).run = true := rfl
@[simp] theorem startDriver_pkt (s : State) : (s.startDriver).pkt = s.pkt := rfl
@[simp] theorem startDriver_plen (s : State) : (s.startDriver).plen = s.plen := rfl
@[simp] theorem startDriver_frame (s : State) : (s.startDriver).frame = s.frame := rfl
@[simp] theorem startDriver_flen (s : State) : (s.startDriver).flen = s.flen := rfl
@[simp] theorem startDriver_cmdIn (s : State) : (s.startDriver).cmdIn = s.cmdIn := rfl
@[simp] theorem startDriver_resp (s : State) : (s.startDriver).resp = s.resp := rfl
@[simp] theorem startDriver_events (s : State) :
    (s.startDriver).events = s.events ++ [.schedStart s.cfg.initDelay] := rfl
@[simp] theorem startDriver_env (s : State) : (s.startDriver).env = s.env := rfl

/-! ### `countDown` -/

@[simp] theorem countDown_cfg (s : State) (n : Half) : (s.countDown n).cfg = s.cfg := rfl
@[simp] theorem countDown_laddr (s : State) (n : Half) : (s.countDown n).laddr = s.laddr := rfl
@[simp] theorem countDown_alen (s : State) (n : Half) : (s.countDown n).alen = s.alen := rfl
@[simp] theorem countDown_seed (s : State) (n : Half) : (s.countDown n).seed = s.seed := rfl
@[simp] theorem countDown_crcen (s : State) (n : Half) : (s.countDown n).crcen = s.crcen := rfl
@[simp] theorem countDown_pid (s : State) (n : Half) : (s.countDown n).pid = s.pid := rfl
@[simp] theorem countDown_txa (s : State) (n : Half) : (s.countDown n).txa = s.txa := rfl
@[simp] theorem countDown_phase (s : State) (n : Half) : (s.countDown n).phase = s.phase := rfl
@[simp] theorem countDown_bcnt (s : State) (n : Half) :
    (s.countDown n).bcnt = .written (n - 1) := rfl
@[simp] theorem countDown_armed (s : State) (n : Half) : (s.countDown n).armed = s.armed := rfl
@[simp] theorem countDown_aflags (s : State) (n : Half) : (s.countDown n).aflags = s.aflags := rfl
@[simp] theorem countDown_lsign (s : State) (n : Half) : (s.countDown n).lsign = s.lsign := rfl
@[simp] theorem countDown_txpwr (s : State) (n : Half) : (s.countDown n).txpwr = s.txpwr := rfl
@[simp] theorem countDown_run (s : State) (n : Half) : (s.countDown n).run = s.run := rfl
@[simp] theorem countDown_pkt (s : State) (n : Half) : (s.countDown n).pkt = s.pkt := rfl
@[simp] theorem countDown_plen (s : State) (n : Half) : (s.countDown n).plen = s.plen := rfl
@[simp] theorem countDown_frame (s : State) (n : Half) : (s.countDown n).frame = s.frame := rfl
@[simp] theorem countDown_flen (s : State) (n : Half) : (s.countDown n).flen = s.flen := rfl
@[simp] theorem countDown_cmdIn (s : State) (n : Half) : (s.countDown n).cmdIn = s.cmdIn := rfl
@[simp] theorem countDown_resp (s : State) (n : Half) : (s.countDown n).resp = s.resp := rfl
@[simp] theorem countDown_events (s : State) (n : Half) : (s.countDown n).events = s.events := rfl
@[simp] theorem countDown_env (s : State) (n : Half) : (s.countDown n).env = s.env := rfl

/-! ### `toData` -/

@[simp] theorem toData_cfg (s : State) (a : Addr) : (s.toData a).cfg = s.cfg := rfl
@[simp] theorem toData_laddr (s : State) (a : Addr) :
    (s.toData a).laddr = Memory.ofBytes (usedAddr fullLen a) := rfl
@[simp] theorem toData_alen (s : State) (a : Addr) :
    (s.toData a).alen = .written (BitVec.ofNat 3 (clampLen fullLen)) := rfl
@[simp] theorem toData_seed (s : State) (a : Addr) :
    (s.toData a).seed = .written (crcSeedOf fullLen a) := rfl
@[simp] theorem toData_crcen (s : State) (a : Addr) : (s.toData a).crcen = s.crcen := rfl
@[simp] theorem toData_pid (s : State) (a : Addr) : (s.toData a).pid = s.pid := rfl
@[simp] theorem toData_txa (s : State) (a : Addr) : (s.toData a).txa = s.txa := rfl
@[simp] theorem toData_phase (s : State) (a : Addr) : (s.toData a).phase = .written .data := rfl
@[simp] theorem toData_bcnt (s : State) (a : Addr) : (s.toData a).bcnt = s.bcnt := rfl
@[simp] theorem toData_armed (s : State) (a : Addr) : (s.toData a).armed = s.armed := rfl
@[simp] theorem toData_aflags (s : State) (a : Addr) : (s.toData a).aflags = s.aflags := rfl
@[simp] theorem toData_lsign (s : State) (a : Addr) : (s.toData a).lsign = s.lsign := rfl
@[simp] theorem toData_txpwr (s : State) (a : Addr) : (s.toData a).txpwr = s.txpwr := rfl
@[simp] theorem toData_run (s : State) (a : Addr) : (s.toData a).run = s.run := rfl
@[simp] theorem toData_pkt (s : State) (a : Addr) : (s.toData a).pkt = s.pkt := rfl
@[simp] theorem toData_plen (s : State) (a : Addr) : (s.toData a).plen = s.plen := rfl
@[simp] theorem toData_frame (s : State) (a : Addr) : (s.toData a).frame = s.frame := rfl
@[simp] theorem toData_flen (s : State) (a : Addr) : (s.toData a).flen = s.flen := rfl
@[simp] theorem toData_cmdIn (s : State) (a : Addr) : (s.toData a).cmdIn = s.cmdIn := rfl
@[simp] theorem toData_resp (s : State) (a : Addr) : (s.toData a).resp = s.resp := rfl
@[simp] theorem toData_events (s : State) (a : Addr) :
    (s.toData a).events = s.events ++ [.xwTxaddr (preambleField s.cfg fullLen a)] ++ [.bindstat 0] := rfl
@[simp] theorem toData_env (s : State) (a : Addr) : (s.toData a).env = s.env := rfl

end Sys2Proof.Machine
end

