-- ==== Sys2Proof/Laws/Meanings.lean ====
section
/-! SUPPORT. One lemma per shared operation of the meanings that says once everything it can do, and the
lengths of what the framer and the encoders build; later proofs cite these instead of unfolding. -/

namespace Sys2Proof.Machine

/-! ### Operands -/

theorem clampLen_cases (len : Byte) : clampLen len = 4 ∨ clampLen len = 5 := by
  unfold clampLen; omega

theorem clampLen_le_five (len : Byte) : clampLen len ≤ 5 := by unfold clampLen; omega

@[simp] theorem clampLen_fullLen : clampLen fullLen = 5 := rfl

@[simp] theorem usedAddr_length (len : Byte) (a : Addr) : (usedAddr len a).length = clampLen len := by
  have := clampLen_le_five len
  simp only [usedAddr, List.length_take, Addr.length_toList]
  omega

@[simp] theorem usedAddr_fullLen (a : Addr) : usedAddr fullLen a = a.toList := rfl

theorem crcSeedOf_fullLen (a : Addr) :
    crcSeedOf fullLen a = crcFold Config.crcInit a.toList.reverse := rfl

@[simp] theorem truncated_length (m : List Byte) : (truncated m).length = min m.length 15 := by
  simp [truncated, Config.keyLen, Nat.min_comm]

/-- Truncation happens once: a truncated payload is left as it is (R151). -/
@[simp] theorem truncated_truncated (m : List Byte) : truncated (truncated m) = truncated m := by
  simp [truncated, List.take_take]

/-! ### Scrambler and framer -/

@[simp] theorem scramble_length (c : Cfg) (m : List Byte) :
    (scramble c m).length = min m.length 15 := by
  simp [scramble]

theorem byteBits_length (b : Byte) : (byteBits b).length = 8 := rfl

theorem flatMap_byteBits_length (bs : List Byte) : (bs.flatMap byteBits).length = 8 * bs.length := by
  induction bs with
  | nil => rfl
  | cons b bs ih => simp only [List.flatMap_cons, List.length_append, byteBits_length, ih,
      List.length_cons]; omega

/-- Cutting `8 k` bits gives `k` bytes. -/
theorem packBits_length (k : Nat) (bits : List Bool) (h : bits.length = 8 * k) :
    (packBits bits).length = k := by
  induction k generalizing bits with
  | zero => rw [List.eq_nil_of_length_eq_zero h]; rfl
  | succ k ih =>
    match bits, h with
    | b7 :: b6 :: b5 :: b4 :: b3 :: b2 :: b1 :: b0 :: bs, h =>
      simp only [packBits, List.length_cons]
      rw [ih bs (by simp only [List.length_cons] at h; omega)]

/-- The tail is one byte longer than its content (R105). -/
@[simp] theorem tailBytes_length (noack : Bool) (content : List Byte) :
    (tailBytes noack content).length = content.length + 1 := by
  refine packBits_length _ _ ?_
  simp only [List.length_append, List.length_cons, flatMap_byteBits_length, paddingBits,
    List.length_replicate]
  omega

@[simp] theorem halfBytes_length (h : Half) : (halfBytes h).length = 2 := rfl

theorem crcField_length (c : Cfg) (pid : BitVec 2) (m : List Byte) (seed : Option Half) :
    (crcField c pid m seed).length = if seed.isSome then 2 else 0 := by
  cases seed <;> rfl

/-- `FLEN` (R176), with `A` the number of address bytes. -/
theorem frameBytes_length (c : Cfg) (addr : List Byte) (g : Byte) (pid : BitVec 2) (m : List Byte)
    (seed : Option Half) :
    (frameBytes c addr g pid m seed).length =
      addr.length + min m.length 15 + 4 + if seed.isSome then 2 else 0 := by
  simp only [frameBytes, List.length_append, List.length_cons, List.length_nil, tailBytes_length,
    scramble_length, crcField_length]
  omega

/-- The address bytes read down from `n` are the cells `n-1` to 0, all written. -/
theorem readAddrDown_eq_ok {m : Memory} {n : Nat} {bs : List Byte} :
    readAddrDown m n = .ok bs ↔ bs.length = n ∧ ∀ i, i < n → m.read i = bs[n - 1 - i]? := by
  induction n generalizing bs with
  | zero =>
    simp only [readAddrDown, Nat.not_lt_zero, false_implies, implies_true, and_true,
      List.length_eq_zero_iff]
    exact ⟨fun h => (Except.ok.inj h).symm, fun h => h ▸ rfl⟩
  | succ n ih =>
    simp only [readAddrDown, Eff.bind_eq_ok, Memory.readReg_eq_ok, Eff.pure_eq, Except.ok.injEq]
    constructor
    · rintro ⟨b, hb, bs', hbs', rfl⟩
      obtain ⟨hlen, hread⟩ := ih.1 hbs'
      refine ⟨by simp [hlen], fun i hi => ?_⟩
      rcases Nat.lt_or_ge i n with h | h
      · rw [hread i h, show n + 1 - 1 - i = (n - 1 - i) + 1 by omega, List.getElem?_cons_succ]
      · have : i = n := by omega
        subst this
        simpa using hb
    · rintro ⟨hlen, hread⟩
      cases bs with
      | nil => simp at hlen
      | cons b bs =>
        refine ⟨b, by simpa using hread n (by omega), bs, ih.2 ⟨by simpa using hlen, fun i hi => ?_⟩,
          rfl⟩
        rw [hread i (by omega), show n + 1 - 1 - i = (n - 1 - i) + 1 by omega,
          List.getElem?_cons_succ]

/-- Reading down a space that holds the address gives it reversed (R101). -/
theorem readAddrDown_ofBytes (bs : List Byte) :
    readAddrDown (Memory.ofBytes bs) bs.length = .ok bs.reverse := by
  rw [readAddrDown_eq_ok]
  refine ⟨by simp, fun i hi => ?_⟩
  rw [Memory.read_ofBytes, List.getElem?_reverse (by omega)]
  congr 1
  omega

@[simp] theorem readSeed_off (s : State) : readSeed s false = .ok none := rfl

theorem readSeed_on (s : State) : readSeed s true = (s.seed.read .seed).map some := by
  cases h : s.seed <;> simp [readSeed, h, Except.map]

/-- Everything the frame builder reads when it completes (R170). -/
theorem buildFrame_eq_ok {m : List Byte} {s : State} {f : List Byte} :
    buildFrame m s = .ok f ↔
      ∃ alen crcen addr g seed, s.alen = .written alen ∧ s.crcen = .written crcen ∧
        readAddrDown s.laddr alen.toNat = .ok addr ∧ s.laddr.read 0 = some g ∧
        readSeed s crcen = .ok seed ∧ f = frameBytes s.cfg addr g s.pid m seed := by
  simp only [buildFrame, Eff.bind_eq_ok, Reg.read_eq_ok, Memory.readReg_eq_ok, Eff.pure_eq,
    Except.ok.injEq]
  constructor
  · rintro ⟨a, ha, c, hc, r, hr, g, hg, sd, hsd, rfl⟩
    exact ⟨a, c, r, g, sd, ha, hc, hr, hg, hsd, rfl⟩
  · rintro ⟨a, c, r, g, sd, ha, hc, hr, hg, hsd, rfl⟩
    exact ⟨a, ha, c, hc, r, hr, g, hg, sd, hsd, rfl⟩

/-- LL.SEND completes exactly when its frame can be built, and then submits it (R170). -/
theorem send_eq_ok {m : List Byte} {s t : State} :
    send m s = .ok t ↔ ∃ f, buildFrame m s = .ok f ∧ t = s.submit f := by
  simp only [send, Eff.bind_eq_ok, Eff.pure_eq, Eff.ok_inj]

/-! ### Arming tracker -/

/-- Everything ARM does when it completes (R195). -/
theorem armTrack_eq_ok {v : Word} {s t : State} :
    armTrack v s = .ok t ↔
      ∃ l, s.lsign = .written l ∧
        ((positive v = l ∧ t = s) ∨
          (positive v ≠ l ∧ ∃ a, s.aflags = .written a ∧
            t = s.armEdge (positive v) a)) := by
  simp only [armTrack, Eff.bind_eq_ok, Reg.read_eq_ok]
  refine exists_congr fun l => and_congr_right fun _ => ?_
  by_cases h : positive v = l
  · simp [h, eq_comm]
  · simp [h, Eff.bind_eq_ok, Reg.read_eq_ok, Eff.ok_inj, -Except.ok.injEq]

/-- Where ARM faults: `LSIGN` unwritten, or an edge with `AFLAGS` unwritten (R22, R195). -/
theorem armTrack_eq_error {v : Word} {s : State} {f : Fault} :
    armTrack v s = .error f ↔
      (s.lsign = .unwritten ∧ f = .readOfUnwritten .lsign) ∨
        ∃ l, s.lsign = .written l ∧ positive v ≠ l ∧ s.aflags = .unwritten ∧
          f = .readOfUnwritten .aflags := by
  simp only [armTrack, Eff.bind_eq_error, Reg.read_eq_ok, Reg.read_eq_error]
  refine or_congr_right (exists_congr fun l => and_congr_right fun _ => ?_)
  by_cases h : positive v = l
  · simp [h]
  · simp [h, Eff.bind_eq_error, Reg.read_eq_error]

/-! ### Encoders -/

@[simp] theorem bindPacket_length (a : Addr) : (bindPacket a).length = 9 := rfl

@[simp] theorem dataBody_length (c : Cfg) (ch : Channels) (f : Byte) :
    (dataBody c ch f).length = 9 := rfl

@[simp] theorem dataPacket_length (c : Cfg) (ch : Channels) (f : Byte) :
    (dataPacket c ch f).length = 10 := rfl

theorem encodeBind_eq_ok {s : State} {r : List Byte × State} :
    encodeBind s = .ok r ↔
      ∃ a, s.txa = .written a ∧ r = (bindPacket a, s.storePacket (bindPacket a)) := by
  simp only [encodeBind, Eff.bind_eq_ok, Reg.read_eq_ok, Eff.pure_eq, Eff.ok_inj]

/-- A read of a channel whose script is one held value presents it and uses nothing up (R41). -/
theorem readChan_held {e : Env} {v : Fin 10 → Word} (h : ∀ i : Fin 10, e.chan[i] = [v i])
    (n : Nat) (i : Fin 10) :
    Env.readChan i { e with reads := n } = (v i, { e with reads := n + 1 }) := by
  simp only [Env.readChan, h, scriptValue, scriptNext]
  rw [← h i]
  simp

/-- With every channel's script one held value, each role gets that of the channel CFG names for it
(R215, R217). -/
theorem readChannels_held {e : Env} {v : Fin 10 → Word} (h : ∀ i : Fin 10, e.chan[i] = [v i])
    (c : Cfg) :
    e.readChannels c = (⟨v c.chArm, v c.chThr, v c.chRud, v c.chAil, v c.chEle, v c.chFlip,
      v c.chLed, v c.chHeadless, v c.chRth⟩, { e with reads := e.reads + 9 }) := by
  have first := readChan_held h e.reads
  simp only [Env.readChannels, first, readChan_held h]

theorem encodeData_eq_ok {s : State} {r : List Byte × State} :
    encodeData s = .ok r ↔
      ∃ t a, armTrack (s.env.readChannels s.cfg).1.arm
            (s.withEnv (s.env.readChannels s.cfg).2) = .ok t ∧
        t.aflags = .written a ∧
        r = (dataPacket s.cfg (s.env.readChannels s.cfg).1 a,
          t.storePacket (dataPacket s.cfg (s.env.readChannels s.cfg).1 a)) := by
  simp only [encodeData, Eff.bind_eq_ok, Reg.read_eq_ok, Eff.pure_eq, Except.ok.injEq]
  constructor
  · rintro ⟨t, ht, a, ha, rfl⟩; exact ⟨t, a, ht, ha, rfl⟩
  · rintro ⟨t, a, ht, ha, rfl⟩; exact ⟨t, ht, a, ha, rfl⟩

theorem respondPacket_eq_ok {e : Eff (List Byte × State)} {t : State} :
    respondPacket e = .ok t ↔ ∃ r, e = .ok r ∧ t = r.2.respond r.1 := by
  simp only [respondPacket, Eff.bind_eq_ok, Eff.pure_eq, Eff.ok_inj]

/-! ### The tick -/

theorem bindTick_eq_ok {s t : State} :
    bindTick s = .ok t ↔
      ∃ a f n, s.txa = .written a ∧
        buildFrame (bindPacket a) (s.storePacket (bindPacket a)) = .ok f ∧
        s.bcnt = .written n ∧
        t = if n - 1 = 0 then (((s.storePacket (bindPacket a)).submit f).countDown n).toData a
            else ((s.storePacket (bindPacket a)).submit f).countDown n := by
  simp only [bindTick, Eff.bind_eq_ok, encodeBind_eq_ok, send_eq_ok, Reg.read_eq_ok]
  constructor
  · rintro ⟨_, ⟨a, ha, rfl⟩, _, ⟨f, hf, rfl⟩, n, hn, h⟩
    refine ⟨a, f, n, ha, hf, hn, ?_⟩
    split at h
    · next h0 =>
      obtain ⟨a', ha', h⟩ := Eff.bind_eq_ok.1 h
      obtain rfl : a = a' := Reg.written.inj (ha.symm.trans (Reg.read_eq_ok.1 ha'))
      rw [if_pos h0]
      exact Eff.ok_inj.1 h
    · next h0 => rw [if_neg h0]; exact Eff.ok_inj.1 h
  · rintro ⟨a, f, n, ha, hf, hn, rfl⟩
    refine ⟨_, ⟨a, ha, rfl⟩, _, ⟨f, hf, rfl⟩, n, hn, ?_⟩
    by_cases h0 : n - 1 = 0
    · rw [if_pos h0, if_pos h0]
      exact Eff.bind_eq_ok.2 ⟨a, Reg.read_eq_ok.2 ha, rfl⟩
    · rw [if_neg h0, if_neg h0]; rfl

theorem dataTick_eq_ok {s t : State} :
    dataTick s = .ok t ↔
      ∃ r f, encodeData s = .ok r ∧ buildFrame r.1 r.2 = .ok f ∧ t = r.2.submit f := by
  simp only [dataTick, Eff.bind_eq_ok, send_eq_ok]
  constructor
  · rintro ⟨r, hr, f, hf, rfl⟩; exact ⟨r, f, hr, hf, rfl⟩
  · rintro ⟨r, f, hr, hf, rfl⟩; exact ⟨r, hr, f, hf, rfl⟩

theorem applyPower_eq_ok {p : Byte} {s t : State} :
    applyPower p s = .ok t ↔
      ∃ q, s.txpwr = .written q ∧ t = if p = q then s else s.setPower p := by
  simp only [applyPower, Eff.bind_eq_ok, Reg.read_eq_ok]
  refine exists_congr fun q => and_congr_right fun _ => ?_
  by_cases h : p = q <;> simp [h, eq_comm]

/-- A tick after admission, from the state with the power port read (R240). -/
theorem tickBody_eq_ok {s t : State} :
    tickBody s = .ok t ↔
      ∃ ph u w, s.phase = .written ph ∧
        phaseTick ph (s.withEnv s.env.readPower.2) = .ok u ∧
        applyPower s.env.readPower.1 u = .ok w ∧
        t = w.respond (halfBytes (BitVec.ofNat 16 w.cfg.period)) := by
  simp only [tickBody, Eff.bind_eq_ok, Reg.read_eq_ok, Eff.pure_eq, Except.ok.injEq]
  constructor
  · rintro ⟨ph, hp, u, hu, w, hw, rfl⟩; exact ⟨ph, u, w, hp, hu, hw, rfl⟩
  · rintro ⟨ph, u, w, hp, hu, hw, rfl⟩; exact ⟨ph, hp, u, hu, w, hw, rfl⟩

theorem execTick_eq_next {s t : State} :
    execTick s = .next t ↔ s.run = true ∧ tickBody s = .ok t := by
  unfold execTick
  cases s.run <;> simp [Eff.outcome_eq_next]

end Sys2Proof.Machine
end

