-- ==== Sys2Proof/Laws/Exec.lean ====
section
/-! SUPPORT. One lemma per operation that says once everything it does when it completes, for the
proofs over all operations: none of them unfolds a meaning. -/

namespace Sys2Proof.Machine

/-- Everything INIT does (R236). -/
theorem init_eq (s : State) :
    s.init =
      { s with
        txa := .written (deriveTxa s.cfg s.env).1
        phase := .written .bind
        bcnt := .written (BitVec.ofNat 16 s.cfg.bindCount)
        pid := 0
        armed := .written false
        aflags := .written 0
        lsign := .written false
        txpwr := .written (deriveTxa s.cfg s.env).2.readPower.1
        crcen := .written (crcEnable s.cfg s.cfg.initFlags)
        alen := .written 5
        laddr := Memory.ofBytes s.cfg.bindAddr.toList
        seed := .written (crcSeedOf fullLen s.cfg.bindAddr)
        run := true
        env := (deriveTxa s.cfg s.env).2.readPower.2
        events := s.events ++ [.schedStop, .xBringup,
          .xSetpower (deriveTxa s.cfg s.env).2.readPower.1,
          .xwCfg (modeBits s.cfg s.cfg.initFlags),
          .xwTxaddr (preambleField s.cfg fullLen s.cfg.bindAddr), .bindstat s.cfg.bindEst,
          .schedStart s.cfg.initDelay] } := by
  apply State.ext_fields <;> simp [State.init]

/-- A pure operation that completes only responds (R73). -/
theorem exec_pure_next {i : Instr} (hp : IsPure i) {s t : State} (h : exec i s = .next t) :
    ∃ r, t = s.respond r := by
  cases i <;> simp only [IsPure] at hp
  case crcUpd =>
    simp only [exec, execCrcUpd] at h
    split at h
    · cases h; exact ⟨_, rfl⟩
    · cases h
  all_goals cases h; exact ⟨_, rfl⟩

/-- LL.SEND that completes submits the frame it built (R170). -/
theorem exec_llSend_next {m : List Byte} {s t : State} (h : exec (.llSend m) s = .next t) :
    ∃ f, buildFrame m s = .ok f ∧ t = s.submit f := by
  simpa only [exec, execLlSend, Eff.outcome_eq_next, send_eq_ok] using h

/-- ARM that completes changes nothing or takes the edge away from the remembered sign (R195). -/
theorem exec_arm_next {v : Word} {s t : State} (h : exec (.arm v) s = .next t) :
    ∃ l, s.lsign = .written l ∧
      (t = s ∨ ∃ x, s.aflags = .written x ∧ t = s.armEdge (!l) x) := by
  simp only [exec, execArm, Eff.outcome_eq_next, armTrack_eq_ok] at h
  obtain ⟨l, hl, ⟨_, h⟩ | ⟨hn, x, hx, h⟩⟩ := h
  · exact ⟨l, hl, .inl h⟩
  · exact ⟨l, hl, .inr ⟨x, hx, by rw [h, Bool.eq_not_of_ne hn]⟩⟩

/-- ENC.BIND that completes stores and responds the packet of `TXA` (R214). -/
theorem exec_encBind_next {s t : State} (h : exec .encBind s = .next t) :
    ∃ a, s.txa = .written a ∧ t = (s.storePacket (bindPacket a)).respond (bindPacket a) := by
  simp only [exec, execEncBind, Eff.outcome_eq_next, respondPacket_eq_ok, encodeBind_eq_ok] at h
  obtain ⟨_, ⟨a, ha, rfl⟩, rfl⟩ := h
  exact ⟨a, ha, rfl⟩

/-- ENC.DATA that completes runs the tracker, then stores and responds the packet (R215). -/
theorem exec_encData_next {s t : State} (h : exec .encData s = .next t) :
    ∃ l y u, s.lsign = .written l ∧ u.aflags = .written y ∧
      t = (u.storePacket (dataPacket s.cfg (s.env.readChannels s.cfg).1 y)).respond
        (dataPacket s.cfg (s.env.readChannels s.cfg).1 y) ∧
      (u = s.withEnv (s.env.readChannels s.cfg).2 ∨
        ∃ x, s.aflags = .written x ∧
          u = (s.withEnv (s.env.readChannels s.cfg).2).armEdge (!l) x) := by
  simp only [exec, execEncData, Eff.outcome_eq_next, respondPacket_eq_ok, encodeData_eq_ok,
    armTrack_eq_ok] at h
  obtain ⟨_, ⟨u, a, ⟨l, hl, k⟩, ha, rfl⟩, rfl⟩ := h
  simp only [withEnv_lsign, withEnv_aflags] at hl k
  refine ⟨l, a, u, hl, ha, rfl, ?_⟩
  rcases k with ⟨_, rfl⟩ | ⟨hn, x, hx, rfl⟩
  · exact .inl rfl
  · exact .inr ⟨x, hx, by rw [Bool.eq_not_of_ne hn]⟩

/-! ### TICK -/

/-- The countdown reaches 0 exactly from 1 (R241). -/
theorem sub_one_eq_zero (n : Half) : n - 1 = 0 ↔ n = 1 := by
  constructor
  · intro h
    have := congrArg (· + 1) h
    simpa [BitVec.sub_add_cancel] using this
  · rintro rfl; rfl

/-- What every tick does: the frame sent twice before any other event, the packet-id, the power level,
the response, and what it leaves alone (R240, R243, R244). -/
structure TickCommon (s t : State) (f : List Byte) : Prop where
  run : s.run = true
  power : ∃ q, s.txpwr = .written q
  events : ∃ ev, t.events = s.events ++ [.xwPayload f, .xwPayload f] ++ ev ∧
    ∀ g, Event.xwPayload g ∉ ev
  resp : t.resp = s.resp ++ halfBytes (BitVec.ofNat 16 s.cfg.period)
  pid : t.pid = s.pid + 1
  txpwr : t.txpwr = .written s.env.readPower.1
  cfg : t.cfg = s.cfg
  cmdIn : t.cmdIn = s.cmdIn
  run' : t.run = true
  txa : t.txa = s.txa
  crcen : t.crcen = s.crcen
  frame : t.frame = Memory.ofBytes f
  flen : t.flen = .written (BitVec.ofNat 5 f.length)

/-- The frame of a tick is built for packet `p` from the framer's registers before it (R170). -/
def SentFrom (s : State) (p f : List Byte) : Prop :=
  ∃ u, buildFrame p u = .ok f ∧ u.alen = s.alen ∧ u.seed = s.seed ∧ u.laddr = s.laddr ∧
    u.crcen = s.crcen ∧ u.cfg = s.cfg ∧ u.pid = s.pid

/-- What a Bind-phase tick does besides (R241, R245). -/
structure TickBind (s t : State) (f : List Byte) (a : Addr) (n : Half) : Prop where
  phase : s.phase = .written .bind
  txa : s.txa = .written a
  bcnt : s.bcnt = .written n
  bcnt' : t.bcnt = .written (n - 1)
  armed : t.armed = s.armed
  aflags : t.aflags = s.aflags
  lsign : t.lsign = s.lsign
  env : t.env = s.env.readPower.2
  pkt : t.pkt = Memory.ofBytes (bindPacket a)
  plen : t.plen = .written 9
  sent : SentFrom s (bindPacket a) f
  last : n = 1 → t.phase = .written .data ∧ t.laddr = Memory.ofBytes a.toList ∧
    t.alen = .written 5 ∧ t.seed = .written (crcSeedOf fullLen a)
  more : n ≠ 1 → t.phase = .written .bind ∧ t.laddr = s.laddr ∧ t.alen = s.alen ∧ t.seed = s.seed

/-- What a Data-phase tick does besides (R242). -/
structure TickData (s t : State) (f : List Byte) (l : Bool) (y : Byte) : Prop where
  phase : s.phase = .written .data
  phase' : t.phase = .written .data
  bcnt : t.bcnt = s.bcnt
  laddr : t.laddr = s.laddr
  alen : t.alen = s.alen
  seed : t.seed = s.seed
  lsign : s.lsign = .written l
  aflags : t.aflags = .written y
  pkt : t.pkt = Memory.ofBytes (dataPacket s.cfg (s.env.readPower.2.readChannels s.cfg).1 y)
  plen : t.plen = .written 10
  sent : SentFrom s (dataPacket s.cfg (s.env.readPower.2.readChannels s.cfg).1 y) f
  edge : (t.lsign = s.lsign ∧ t.armed = s.armed ∧ t.aflags = s.aflags) ∨
    ∃ x, s.aflags = .written x ∧ t.lsign = .written (!l) ∧ t.armed = .written (!l) ∧
      t.aflags = .written (edgeFlags s.cfg (!l) x)

/-- Everything TICK does when it completes (R240 to R245). -/
theorem exec_tick_next {s t : State} (h : exec .tick s = .next t) :
    ∃ f, TickCommon s t f ∧ ((∃ a n, TickBind s t f a n) ∨ ∃ l y, TickData s t f l y) := by
  obtain ⟨hrun, ph, u, w, hph, hu, hw, rfl⟩ :
      s.run = true ∧ _ := by
    have := execTick_eq_next.1 h
    exact ⟨this.1, tickBody_eq_ok.1 this.2⟩
  obtain ⟨q, hq, rfl⟩ := applyPower_eq_ok.1 hw
  clear hw h
  cases ph with
  | bind =>
    obtain ⟨a, f, n, ha, hf, hn, hu⟩ := bindTick_eq_ok.1 hu
    simp only [sub_one_eq_zero] at hu
    have hq' : s.txpwr = .written q := by rw [hu] at hq; split at hq <;> simpa using hq
    have hs : SentFrom s (bindPacket a) f := ⟨_, hf, by simp⟩
    simp only [withEnv_txa, withEnv_bcnt] at ha hn
    refine ⟨f, ⟨hrun, ⟨q, hq'⟩, ?_, ?_, ?_, ?_, ?_, ?_, ?_, ?_, ?_, ?_, ?_⟩,
      .inl ⟨a, n, hph, ha, hn, ?_, ?_, ?_, ?_, ?_, ?_, ?_, hs, ?_, ?_⟩⟩
    all_goals
      by_cases h1 : n = 1#16 <;> by_cases h2 : s.env.readPower.1 = q <;>
        simp [hu, h1, h2, hq', hrun, hph]
  | data =>
    obtain ⟨r, f, hr, hf, hu⟩ := dataTick_eq_ok.1 hu
    obtain ⟨v, y, hv, hy, rfl⟩ := encodeData_eq_ok.1 hr
    obtain ⟨l, hl, hv⟩ := armTrack_eq_ok.1 hv
    simp only [withEnv_cfg, withEnv_env, withEnv_lsign] at hl hu hf hv
    have hq' : s.txpwr = .written q := by
      rw [hu] at hq
      rcases hv with ⟨_, rfl⟩ | ⟨_, x, _, rfl⟩ <;> simpa using hq
    have hs : SentFrom s (dataPacket s.cfg (s.env.readPower.2.readChannels s.cfg).1 y) f := by
      refine ⟨_, hf, ?_⟩
      rcases hv with ⟨_, rfl⟩ | ⟨_, x, _, rfl⟩ <;> simp
    refine ⟨f, ⟨hrun, ⟨q, hq'⟩, ?_, ?_, ?_, ?_, ?_, ?_, ?_, ?_, ?_, ?_, ?_⟩,
      .inr ⟨l, y, hph, ?_, ?_, ?_, ?_, ?_, hl, ?_, ?_, ?_, hs, ?edge⟩⟩
    case edge =>
      rcases hv with ⟨h1, rfl⟩ | ⟨h1, x, hx, rfl⟩
      · left; by_cases h2 : s.env.readPower.1 = q <;> simp [hu, h2]
      · right
        simp only [withEnv_aflags] at hx
        refine ⟨x, hx, ?_⟩
        by_cases h2 : s.env.readPower.1 = q <;> simp [hu, h2, Bool.eq_not_of_ne h1]
    all_goals
      rcases hv with ⟨h1, rfl⟩ | ⟨h1, x, hx, rfl⟩ <;>
        by_cases h2 : s.env.readPower.1 = q <;> simp [hu, h2, hq', hrun, hph] <;> simpa using hy

end Sys2Proof.Machine
end

