-- ==== Sys2Proof/Laws/PerInstr.lean ====
section
/-! SUPPORT. A statement made per instruction: the length of a command is what its opcode byte and its
count byte say, whatever follows it in the stream (spec 30_encoding.md R93, R95). -/

namespace Sys2Proof.Laws.CommandLength

/-- The length `commandLength` reads off a well-formed command's bytes is the number of them (R95). -/
def Statement (i : Instr) : Prop :=
  i.wellFormed = true → ∀ rest : List Byte, commandLength (encode i ++ rest) = (encode i).length

/-- A count byte holds the length of a list that fits it (R95). -/
theorem countByte_toNat {m : List Byte} (h : countFits m = true) : (countByte m).toNat = m.length := by
  simp only [countFits, decide_eq_true_eq] at h
  simp only [countByte, BitVec.toNat_ofNat]
  omega

theorem init : Statement .init := fun _ _ => rfl
theorem tick : Statement .tick := fun _ _ => rfl
theorem deinit : Statement .deinit := fun _ _ => rfl
theorem crcUpd (crc : Half) (a n : Byte) : Statement (.crcUpd crc a n) := fun _ _ => rfl
theorem crcSeed (len : Byte) (addr : Addr) : Statement (.crcSeed len addr) := fun _ _ => rfl

theorem crcMsg (seed : Half) (m : List Byte) : Statement (.crcMsg seed m) := fun h rest => by
  simp [commandLength, encode, countByte_toNat h]; omega

theorem scr (m : List Byte) : Statement (.scr m) := fun h rest => by
  simp [commandLength, encode, countByte_toNat h]; omega

theorem llCfg (flags : Byte) : Statement (.llCfg flags) := fun _ _ => rfl
theorem llSetaddr (len : Byte) (addr : Addr) : Statement (.llSetaddr len addr) := fun _ _ => rfl

theorem llSend (m : List Byte) : Statement (.llSend m) := fun h rest => by
  simp [commandLength, encode, countByte_toNat h]; omega

theorem scale (v : Word) (dmin dmax : Byte) : Statement (.scale v dmin dmax) := fun _ _ => rfl
theorem arm (v : Word) : Statement (.arm v) := fun _ _ => rfl

theorem csum (m : List Byte) : Statement (.csum m) := fun h rest => by
  simp [commandLength, encode, countByte_toNat h]; omega

theorem encBind : Statement .encBind := fun _ _ => rfl
theorem encData : Statement .encData := fun _ _ => rfl

end Sys2Proof.Laws.CommandLength
end

