-- ==== Sys2Proof/Tests/Slice0.lean ====
section
/-! SUPPORT. The model's own tests. Expected values are those of spec/95_test_vectors.md, by section or
program and row, or are written out from the encoding tables of 30_encoding.md. The last part shows,
for each statement that has hypotheses, concrete data that meet them together. -/

namespace Sys2Proof.Tests

set_option Elab.async false

open Sys2Proof Sys2Proof.Machine

/-! ### Helpers -/

/-- `CFG_TEST` (95_test_vectors.md section 0). -/
def cfgTest : Cfg where
  key := #v[0x11, 0x22, 0x33, 0x44, 0x55, 0x66, 0x77, 0x88, 0x99, 0xAA, 0xBB, 0xCC, 0xDD, 0xEE, 0xFF]
  bindAddr := ⟨0xC1, 0x02, 0x03, 0x04, 0x85⟩
  noackBit := true
  preIfSet := 0x55
  preIfClear := 0xAA
  crcEnMask := 0x08
  modeMask := 0xF3
  initFlags := 0x0C
  chMax := 10000
  thrMin := 0
  thrMax := 225
  rudMin := 225
  rudMax := 0
  ailMin := 0
  ailMax := 225
  eleMin := 225
  eleMax := 0
  chThr := 2
  chRud := 3
  chAil := 0
  chEle := 1
  chArm := 4
  chFlip := 6
  chLed := 5
  chHeadless := 8
  chRth := 9
  auxThresh := 0
  trim0 := 0x21
  trim1 := 0x22
  armBit := 0x40
  disarmBit := 0x80
  expertBit := 0x02
  flipBit := 0x80
  ledBit := 0x04
  headlessBit := 0x10
  rthBit := 0x08
  bindCount := 3
  period := 4500
  initDelay := 500
  bindEst := 1
  mixSeed := 0
  serialLen := 1
  nZero := 0

/-- The public bind address of `CFG_TEST`. -/
def bindA : Addr := ⟨0xC1, 0x02, 0x03, 0x04, 0x85⟩

/-- The session address of the programs. -/
def sessionA : Addr := ⟨0xA0, 0xB1, 0xC2, 0xD3, 0xE4⟩

/-- Power-on under `CFG_TEST`, the ports as a listing starts them (R127). -/
def fresh : State := { State.powerOn cfgTest with env := Env.listing }

/-- The framer set up for the full address `a`, `SEED` its seed. -/
def framer (a : Addr) (seed : Half) : State :=
  { fresh with laddr := Memory.ofBytes a.toList, alen := .written 5, seed := .written seed,
               crcen := .written true }

/-- A framer with the four-byte address of `LL.SETADDR 3` and the CRC off. -/
def framer4 : State :=
  { fresh with laddr := Memory.ofBytes [0xC1, 0x02, 0x03, 0x04], alen := .written 4,
               seed := .written 0xB86E, crcen := .written false }

/-- A session in the Bind phase with `n` bind frames to go (P3 after INIT has `n = 3`). -/
def binding (n : Half) : State :=
  { framer bindA 0x2C25 with
    txa := .written sessionA, phase := .written .bind, bcnt := .written n, armed := .written false,
    aflags := .written 0, lsign := .written false, txpwr := .written 7, run := true,
    env := { Env.listing with power := [7] } }

/-- A session in the Data phase (P3 after row 4), its channels as given. -/
def flying (chan : Vector (List Word) 10) : State :=
  { framer sessionA 0x4098 with
    txa := .written sessionA, phase := .written .data, bcnt := .written 0, armed := .written false,
    aflags := .written 0, lsign := .written false, txpwr := .written 7, run := true, pid := 3,
    env := { Env.listing with power := [7], chan := chan } }

/-- Every channel at 0. -/
def noChannels : Vector (List Word) 10 := #v[[0], [0], [0], [0], [0], [0], [0], [0], [0], [0]]

/-- Throttle low and arm requested (P3 row 5). -/
def armChannels : Vector (List Word) 10 :=
  #v[[0], [0], [BitVec.ofInt 32 (-10000)], [0], [5000], [0], [0], [0], [0], [0]]

/-- The outcome is a next state with the property. -/
def next (r : Result) (p : State → Bool) : Bool :=
  match r with
  | .next t => p t
  | _ => false

/-- The outcome is this fault. -/
def faults (r : Result) (f : Fault) : Bool :=
  match r with
  | .fault g => g = f
  | _ => false

/-- The outcome is this refusal. -/
def refuses (r : Result) (f : Refusal) : Bool :=
  match r with
  | .refused g => g = f
  | _ => false

/-! ### WellFormed refuses an ill-formed term at each check -/

theorem test_wf_crcUpd_zero : (Instr.crcUpd 0 0 0).wellFormed = false := by decide
theorem test_wf_crcUpd_nine : (Instr.crcUpd 0 0 9).wellFormed = false := by decide
theorem test_wf_crcMsg_long : (Instr.crcMsg 0 (List.replicate 256 0)).wellFormed = false := by
  decide +kernel
theorem test_wf_scr_long : (Instr.scr (List.replicate 256 0)).wellFormed = false := by decide +kernel
theorem test_wf_llSend_long : (Instr.llSend (List.replicate 256 0)).wellFormed = false := by
  decide +kernel
theorem test_wf_csum_long : (Instr.csum (List.replicate 256 0)).wellFormed = false := by
  decide +kernel

/-! ### Decoding: one command per constructor, written out from R92 and R93 -/

theorem test_decode_init : decode [0x00] = .ok (.init, []) := rfl
theorem test_decode_tick : decode [0x01] = .ok (.tick, []) := rfl
theorem test_decode_deinit : decode [0x02] = .ok (.deinit, []) := rfl
theorem test_decode_crcUpd : decode [0x10, 0x12, 0x34, 0x56, 0x03] = .ok (.crcUpd 0x1234 0x56 3, []) :=
  rfl
theorem test_decode_crcSeed : decode [0x11, 0x04, 0xC1, 0x02, 0x03, 0x04, 0x85] =
    .ok (.crcSeed 4 ⟨0xC1, 0x02, 0x03, 0x04, 0x85⟩, []) := rfl
theorem test_decode_crcMsg : decode [0x12, 0x2C, 0x25, 0x02, 0x10, 0xE7] =
    .ok (.crcMsg 0x2C25 [0x10, 0xE7], []) := rfl
theorem test_decode_scr : decode [0x20, 0x02, 0xDE, 0xAD] = .ok (.scr [0xDE, 0xAD], []) := rfl
theorem test_decode_llCfg : decode [0x30, 0x0C] = .ok (.llCfg 0x0C, []) := rfl
theorem test_decode_llSetaddr : decode [0x31, 0x05, 0xC1, 0x02, 0x03, 0x04, 0x85] =
    .ok (.llSetaddr 5 ⟨0xC1, 0x02, 0x03, 0x04, 0x85⟩, []) := rfl
theorem test_decode_llSend : decode [0x32, 0x01, 0x00, 0x01] = .ok (.llSend [0x00], [0x01]) := rfl
theorem test_decode_scale : decode [0x40, 0xFF, 0xFF, 0xD8, 0xF0, 0xE1, 0x00] =
    .ok (.scale 0xFFFFD8F0 0xE1 0x00, []) := rfl
theorem test_decode_arm : decode [0x41, 0x80, 0x00, 0x00, 0x01] = .ok (.arm 0x80000001, []) := rfl
theorem test_decode_csum : decode [0x50, 0x02, 0xFF, 0x01] = .ok (.csum [0xFF, 0x01], []) := rfl
theorem test_decode_encBind : decode [0x51] = .ok (.encBind, []) := rfl
theorem test_decode_encData : decode [0x52] = .ok (.encData, []) := rfl

/-- V-DECODE: reserved opcodes. -/
theorem test_decode_reserved :
    ([0x03, 0x13, 0x21, 0x33, 0x42, 0x53, 0x60, 0xFF] : List Byte).all
      (fun b => refuses (step { fresh with cmdIn := [b] }) .reservedOpcode) = true := by
  decide +kernel

/-- V-DECODE: malformed operands. -/
theorem test_decode_malformed :
    ([[0x10, 0xFF, 0xFF, 0x00, 0x00], [0x10, 0xFF, 0xFF, 0x00, 0x09], [0x31, 0x05, 0xC1, 0x02]] :
      List (List Byte)).all
      (fun bs => refuses (step { fresh with cmdIn := bs }) .malformedOperands) = true := by
  decide +kernel

/-- A word as the opcode table numbers it: `10 FF FF 00 08`. -/
theorem test_table_word : decodeTableWord 40 0x0800FFFF10 = some (.crcUpd 0xFFFF 0x00 8) := by
  decide +kernel

/-- R125, R126: `CRC.UPD 0x0EE4, 0x80, 1` (P1 row 5), then `BIND`, another name of INIT. -/
theorem test_assemble :
    assemble [.command "CRC.UPD" [.num 0x0EE4, .num 0x80, .num 1], .directive (.power 7),
      .command "BIND" []] = some [0x10, 0x0E, 0xE4, 0x80, 0x01, 0x00] := by
  decide +kernel

/-! ### One step of each operation -/

/-- P3 row 1: registers after INIT. -/
theorem test_init_registers :
    next (exec .init { fresh with env := { Env.listing with power := [7], txa := some sessionA } })
      (fun t => t.txa = .written sessionA ∧ t.phase = .written .bind ∧ t.bcnt = .written 3 ∧
        t.seed = .written 0x2C25 ∧ t.crcen = .written true ∧ t.txpwr = .written 7 ∧ t.run) = true := by
  decide +kernel

/-- P3 row 1: events of INIT. -/
theorem test_init_events :
    next (exec .init { fresh with env := { Env.listing with power := [7], txa := some sessionA } })
      (fun t => t.events = [.schedStop, .xBringup, .xSetpower 7, .xwCfg 0x00,
        .xwTxaddr [0x55, 0x55, 0x55, 0x55, 0x55], .bindstat 1, .schedStart 500]) = true := by
  decide +kernel

/-- P3 row 4: the third bind tick sends its frame and switches to Data. -/
theorem test_tick_bind :
    next (exec .tick { binding 1 with pid := 2 })
      (fun t => t.phase = .written .data ∧ t.seed = .written 0x4098 ∧ t.resp = [0x11, 0x94] ∧
        t.frame = Memory.ofBytes [0x85, 0x04, 0x03, 0x02, 0xC1, 0xC1, 0xC1, 0x26, 0x84, 0x93, 0x1A,
          0xF2, 0x72, 0x52, 0x52, 0x36, 0x29, 0xD2, 0xB5, 0x80]) = true := by
  decide +kernel

/-- P3 row 5: the first Data tick sees the rising edge and sends the data packet. -/
theorem test_tick_data :
    next (exec .tick (flying armChannels))
      (fun t => t.aflags = .written 0x40 ∧ t.pid = 0 ∧
        t.frame = Memory.ofBytes [0xE4, 0xD3, 0xC2, 0xB1, 0xA0, 0xA0, 0xA0, 0x2B, 0x88, 0xA9, 0xA1,
          0x9A, 0xBA, 0x22, 0x1B, 0xC5, 0x4C, 0xBE, 0xAB, 0xAB, 0x80]) = true := by
  decide +kernel

/-- P3 row 8. -/
theorem test_deinit :
    next (exec .deinit (flying noChannels))
      (fun t => !t.run ∧ t.resp = [0x01] ∧ t.events = [.schedStop, .xReset] ∧ t.pid = 3) = true := by
  decide +kernel

/-- R271: a failed reset is reported. -/
theorem test_deinit_failed :
    next (exec .deinit { fresh with env := { Env.listing with resetOk := [false] } })
      (fun t => t.resp = [0x00]) = true := by
  decide +kernel

/-- V-CRC table 1: an intermediate shift count. -/
theorem test_crcUpd_three :
    next (exec (.crcUpd 0x1234 0x56 3) fresh) (fun t => t.resp = [0x01, 0xE2]) = true := by
  decide +kernel

/-- V-CRC table 1. -/
theorem test_crcUpd_eight :
    next (exec (.crcUpd 0x1234 0x56 8) fresh) (fun t => t.resp = [0x3C, 0x40]) = true := by
  decide +kernel

/-- V-CRC table 2: fold order, and the clamp of length 3. -/
theorem test_crcSeed :
    next (exec (.crcSeed 5 bindA) fresh) (fun t => t.resp = [0x2C, 0x25]) = true := by
  decide +kernel

theorem test_crcSeed_clamped :
    next (exec (.crcSeed 3 bindA) fresh) (fun t => t.resp = [0xB8, 0x6E]) = true := by
  decide +kernel

/-- V-CRC table 3: the last byte has one shift. -/
theorem test_crcMsg :
    next (exec (.crcMsg 0xFFFF [0x31, 0x32, 0x33, 0x34, 0x35, 0x36, 0x37, 0x38, 0x39]) fresh)
      (fun t => t.resp = [0x20, 0x77]) = true := by
  decide +kernel

theorem test_crcMsg_empty :
    next (exec (.crcMsg 0xFFFF []) fresh) (fun t => t.resp = [0xFF, 0xFF]) = true := by
  decide +kernel

/-- V-SCR. -/
theorem test_scr :
    next (exec (.scr [0xDE, 0xAD, 0xBE, 0xEF]) fresh)
      (fun t => t.resp = [0xCF, 0x8F, 0x8D, 0xAB]) = true := by
  decide +kernel

/-- V-SCR: the sixteenth byte is dropped. -/
theorem test_scr_sixteen :
    next (exec (.scr (List.replicate 16 0xFF)) fresh)
      (fun t => t.resp = [0xEE, 0xDD, 0xCC, 0xBB, 0xAA, 0x99, 0x88, 0x77, 0x66, 0x55, 0x44, 0x33,
        0x22, 0x11, 0x00]) = true := by
  decide +kernel

/-- V-FRAME, LL.CFG: `30 FF` and `30 06`. -/
theorem test_llCfg_on :
    next (exec (.llCfg 0xFF) fresh)
      (fun t => t.crcen = .written true ∧ t.events = [.xwCfg 0xF3]) = true := by
  decide +kernel

theorem test_llCfg_off :
    next (exec (.llCfg 0x06) fresh)
      (fun t => t.crcen = .written false ∧ t.events = [.xwCfg 0x02]) = true := by
  decide +kernel

/-- P2 row 10: length 3 acts as 4, and `LADDR[4]` is unwritten. -/
theorem test_llSetaddr_clamped :
    next (exec (.llSetaddr 3 bindA) (framer bindA 0x2C25))
      (fun t => t.alen = .written 4 ∧ t.laddr.read 3 = some 0x04 ∧ t.laddr.read 4 = none ∧
        t.seed = .written 0xB86E ∧ t.events = [.xwTxaddr [0xAA, 0xAA, 0xAA, 0xAA, 0xAA]]) = true := by
  decide +kernel

/-- V-FRAME row 8. -/
theorem test_llSend :
    next (exec (.llSend [0xDE, 0xAD, 0xBE, 0xEF]) (framer bindA 0x2C25))
      (fun t => t.events = List.replicate 2 (.xwPayload [0x85, 0x04, 0x03, 0x02, 0xC1, 0xC1, 0xC1,
        0x10, 0xE7, 0xC7, 0xC6, 0xD5, 0xD5, 0x54, 0x80]) ∧ t.pid = 1 ∧ t.flen = .written 15) = true := by
  decide +kernel

/-- P4 row 8: CRC off, four address bytes. -/
theorem test_llSend_plain :
    next (exec (.llSend [0x00]) framer4)
      (fun t => t.frame = Memory.ofBytes [0x04, 0x03, 0x02, 0xC1, 0xC1, 0xC1, 0x04, 0x88, 0x80]) =
      true := by
  decide +kernel

/-- V-SCALE: truncation toward zero of a negative quotient. -/
theorem test_scale_truncates :
    next (exec (.scale 0 225 0) fresh) (fun t => t.resp = [0x71]) = true := by
  decide +kernel

/-- V-SCALE: the clamp is on the 32-bit value. -/
theorem test_scale_clamps :
    next (exec (.scale 0x80000000 0 225) fresh) (fun t => t.resp = [0x00]) = true := by
  decide +kernel

/-- V-ARM: the second rising edge clears the ARM bit again. -/
theorem test_arm_rising :
    next (exec (.arm 7) { binding 1 with aflags := .written 0xC0 })
      (fun t => t.armed = .written true ∧ t.aflags = .written 0x80 ∧ t.lsign = .written true) =
      true := by
  decide +kernel

/-- V-DECODE: before any INIT. -/
theorem test_arm_unwritten :
    faults (exec (.arm 1) fresh) (.readOfUnwritten .lsign) = true := by
  decide +kernel

/-- V-CSUM. -/
theorem test_csum_wraps :
    next (exec (.csum [0xA0, 0xB1, 0xC2, 0xD3, 0xE4]) fresh) (fun t => t.resp = [0xCA]) = true := by
  decide +kernel

/-- V-ENC: the bind packet. -/
theorem test_encBind :
    next (exec .encBind (binding 1))
      (fun t => t.resp = [0x18, 0x04, 0x06, 0xA0, 0xB1, 0xC2, 0xD3, 0xE4, 0xCA] ∧
        t.plen = .written 9 ∧ t.pkt.read 9 = none) = true := by
  decide +kernel

/-- V-ENC: every control at its end, four flags and the arm edge. -/
theorem test_encData :
    next (exec .encData (flying #v[[10000], [10000], [10000], [10000], [1], [1], [1], [0], [1], [1]]))
      (fun t => t.resp = [0xE1, 0x00, 0xE1, 0x00, 0x21, 0x22, 0x40, 0x9E, 0x00, 0xE3] ∧
        t.armed = .written true) = true := by
  decide +kernel

/-- CFG_TEST's channel indices (95_test_vectors.md section 0) with channel `i` presenting 100 + `i`:
each role of R215 and R217 reads its own channel, where two reads of one channel would differ. -/
theorem test_channel_roles :
    ({ Env.listing with chan := #v[[100, 0], [101, 0], [102, 0], [103, 0], [104, 0], [105, 0],
        [106, 0], [107, 0], [108, 0], [109, 0]] }.readChannels cfgTest).1 =
      { arm := 104, thr := 102, rud := 103, ail := 100, ele := 101, flip := 106, led := 105,
        headless := 108, rth := 109 } := by
  decide +kernel

/-- V-ENC: channels that tell rudder from elevator and flip from the other flags. -/
theorem test_encData_roles :
    next (exec .encData (flying #v[[3333], [3333], [5000], [BitVec.ofInt 32 (-5000)], [0], [0],
        [10000], [0], [0], [0]]))
      (fun t => t.resp = [0xA8, 0xA9, 0x95, 0x4C, 0x21, 0x22, 0x00, 0x82, 0x00, 0xF7]) = true := by
  decide +kernel

/-- V-ENC: the threshold is strict, and a falling edge. -/
theorem test_encData_falling :
    next (exec .encData { flying noChannels with armed := .written true, aflags := .written 0x40,
                                                 lsign := .written true })
      (fun t => t.resp = [0x70, 0x71, 0x70, 0x71, 0x21, 0x22, 0xC0, 0x02, 0x00, 0xC7]) = true := by
  decide +kernel

/-- P4 rows 1 and 2: what stops right after power-on. -/
theorem test_stops_after_power_on :
    (refuses (exec .tick fresh) .tickWhileStopped &&
      faults (exec .encBind fresh) (.readOfUnwritten .txa) &&
      faults (exec .encData fresh) (.readOfUnwritten .lsign) &&
      faults (exec (.llSend [0x00]) fresh) (.readOfUnwritten .alen)) = true := by
  decide +kernel

/-! ### Witnesses: data that meet a statement's hypotheses together

For each statement with hypotheses, and for each clause of one with several, at a boundary value where
the clause has a range. -/

theorem witness_cfg_wellFormed : cfgTest.WellFormed := by decide

/-- `framer` is a framer ready to send with the CRC on, five address bytes. -/
theorem witness_framerReady :
    FramerReady (framer bindA 0x2C25) [0xC1, 0x02, 0x03, 0x04, 0x85] (some 0x2C25) :=
  ⟨.inr rfl, rfl, by decide, .inr ⟨0x2C25, rfl, rfl, rfl⟩⟩

/-- `framer4` is one with the CRC off, four address bytes. -/
theorem witness_framerReady_plain : FramerReady framer4 [0xC1, 0x02, 0x03, 0x04] none :=
  ⟨.inl rfl, rfl, by decide, .inl ⟨rfl, rfl⟩⟩

theorem witness_step_clauses :
    (∃ i rest, decode { fresh with cmdIn := [0x01, 0x02] }.cmdIn = .ok (i, rest)) ∧
    fresh.cmdIn = [] ∧ decode { fresh with cmdIn := [0x03] }.cmdIn = .error .reservedOpcode ∧
    decode { fresh with cmdIn := [0x10, 0xFF, 0xFF, 0x00, 0x09] }.cmdIn = .error .malformedOperands :=
  ⟨⟨_, _, rfl⟩, rfl, rfl, rfl⟩

theorem witness_decodeInvertsEncode :
    (Instr.crcUpd 0xFFFF 0 1).wellFormed = true ∧ (Instr.crcUpd 0xFFFF 0 8).wellFormed = true ∧
    (Instr.scr []).wellFormed = true ∧ (Instr.scr (List.replicate 255 0xFF)).wellFormed = true := by
  decide +kernel

theorem witness_encodeInvertsDecode :
    decode [0x32, 0x01, 0x00, 0x01] = .ok (.llSend [0x00], [0x01]) := rfl

theorem witness_reservedOpcodes :
    (0x03 : Byte) ∉ tableOpcodes ∧ { fresh with cmdIn := [0x03] }.cmdIn = 0x03 :: [] := by decide

theorem witness_meaninglessOperands :
    (∀ n : Byte, n = 0 ∨ n = 9 → (n = 0 ∨ 8 < n.toNat)) ∧
    (Instr.llSetaddr 5 bindA).wellFormed = true ∧ 6 < (encode (.llSetaddr 5 bindA)).length := by
  refine ⟨?_, by decide⟩
  rintro n (rfl | rfl) <;> decide

theorem witness_tableWord : decodeTableWord 16 0x0C30 = some (.llCfg 0x0C) := by decide +kernel

theorem witness_crcUpd_clauses :
    (1 ≤ (1 : Byte).toNat ∧ (1 : Byte).toNat ≤ 8) ∧ (1 ≤ (8 : Byte).toNat ∧ (8 : Byte).toNat ≤ 8) ∧
    (0 : Byte).toNat = 0 ∧ 8 < (9 : Byte).toNat := by decide

theorem witness_crcSerial_clauses :
    (0x80 : Byte).extractLsb' 0 7 = 0 ∧ (0x81 : Byte).extractLsb' 0 7 ≠ 0 := by decide

theorem witness_scr : (List.replicate 15 (0x18 : Byte))[(14 : Fin 15).val]? = some 0x18 := by decide

theorem witness_scrambleTwice :
    (List.replicate 15 (0x18 : Byte)).length ≤ 15 ∧ 15 < (List.replicate 16 (0x18 : Byte)).length := by
  decide

theorem witness_addressLength :
    (0 : Byte).toNat ≤ 4 ∧ (4 : Byte).toNat ≤ 4 ∧ 5 ≤ (5 : Byte).toNat ∧ 5 ≤ (255 : Byte).toNat := by
  decide

/-- A frame of LL.SEND, of 8 and of 26 bytes. -/
theorem witness_frameLength :
    (∃ t, exec (.llSend []) framer4 = .next t) ∧ [(0xC1 : Byte), 0x02, 0x03, 0x04].length = 4 ∧
    (∃ t, exec (.llSend (List.replicate 15 0)) (framer bindA 0x2C25) = .next t) ∧
    (List.replicate 15 (0 : Byte)).length = 15 :=
  ⟨⟨_, rfl⟩, rfl, ⟨_, rfl⟩, rfl⟩

theorem witness_packetId :
    (∃ t, exec (.llSend [0x00]) framer4 = .next t) ∧ framer4.alen = .written 4 := ⟨⟨_, rfl⟩, rfl⟩

theorem witness_firstUnwritten :
    fresh.alen = .unwritten ∧
    ({ fresh with alen := .written 4 }.alen = .written 4 ∧
      { fresh with alen := .written 4 }.crcen = .unwritten) ∧
    ({ framer4 with alen := .written 5 }.alen = .written 5 ∧ framer4.crcen = .written false ∧
      4 < (5 : BitVec 3).toNat ∧ framer4.laddr.read 4 = none) ∧
    ({ framer4 with crcen := .written true, seed := .unwritten }.seed = .unwritten ∧
      0 < (4 : BitVec 3).toNat ∧ ∀ k, k < 4 → framer4.laddr.read k ≠ none) ∧
    fresh.txa = .unwritten ∧ fresh.lsign = .unwritten ∧
    ({ fresh with lsign := .written false }.lsign = .written false ∧
      decide (0 < (1 : Word).toInt) ≠ false ∧ decide (0 < (0 : Word).toInt) = false ∧
      fresh.aflags = .unwritten) := by
  refine ⟨rfl, ⟨rfl, rfl⟩, ⟨rfl, rfl, by decide, by decide⟩, ⟨rfl, by decide, by decide⟩, rfl, rfl, rfl,
    by decide, by decide, rfl⟩

theorem witness_scale_range :
    1 ≤ cfgTest.chMax ∧ { cfgTest with chMax := 4194304 }.chMax ≤ 2 ^ 22 ∧
    { cfgTest with chMax := 1 }.chMax = 1 := by decide

theorem witness_scale_ends :
    (BitVec.ofInt 32 (-10000)).toInt ≤ -(cfgTest.chMax : Int) ∧
    (cfgTest.chMax : Int) ≤ (BitVec.ofInt 32 10000).toInt ∧
    (BitVec.ofInt 32 (-10000)).toInt ≤ (BitVec.ofInt 32 10000).toInt ∧
    (0 : Byte).toNat ≤ (225 : Byte).toNat := by decide

theorem witness_arm :
    (binding 1).lsign = .written false ∧ (binding 1).aflags = .written 0 ∧
    { binding 1 with lsign := .written true }.lsign = .written true ∧
    0 < (1 : Word).toInt ∧ ¬ 0 < (0 : Word).toInt := by decide

theorem witness_armFlagsChange :
    (∃ t, exec (.arm 1) (binding 1) = .next t) ∧ Instr.arm 1 ≠ .init := ⟨⟨_, rfl⟩, by decide⟩

theorem witness_encBind :
    (binding 1).txa = .written ⟨0xA0, 0xB1, 0xC2, 0xD3, 0xE4⟩ := rfl

theorem witness_encData :
    (flying noChannels).lsign = .written false ∧ (flying noChannels).aflags = .written 0 :=
  ⟨rfl, rfl⟩

theorem witness_heldChannels :
    ∀ i : Fin 10, (flying armChannels).env.chan[i] =
      [if i = 2 then BitVec.ofInt 32 (-10000) else if i = 4 then 5000 else 0] := by decide

/-- A role whose channel has a script, and one whose channel has none. -/
theorem witness_channelRoles :
    [cfgTest.chArm, cfgTest.chThr][1]? = some 2 ∧ (flying armChannels).env.chan[(2 : Fin 10)] ≠ [] ∧
    Env.free.chan[(2 : Fin 10)] = [] := by decide

/-- Every port with a held value, with two values, and with no script. -/
theorem witness_portReads :
    ∀ e : Env, e = { Env.listing with serial := [none], fixedId := [none] } →
      (e.chan[(9 : Fin 10)] = [0] ∧ e.power = [0] ∧ e.serial = [none] ∧ e.fixedId = [none] ∧
        e.resetOk = [true]) ∧
      ({ e with chan := e.chan.set 9 [1, 2] }.chan[(9 : Fin 10)] = [1, 2] ∧
        { e with power := [1, 2], serial := [none, some [3]], fixedId := [some [4], none],
                 resetOk := [true, false] }.resetOk = true :: false :: []) ∧
      Env.free.chan[(9 : Fin 10)] = [] ∧ Env.free.power = [] ∧ Env.free.serial = [] ∧
      Env.free.fixedId = [] ∧ Env.free.resetOk = [] := by
  rintro e rfl
  decide

/-- Two ENC.DATA of one run, the first of which is a rising edge and the next two sustain it: the
read counter differs, the presented channel values and the arm state agree. And two ENC.BIND. -/
theorem witness_encodersCarryNothing :
    (∃ s t t', exec .encData (flying armChannels) = .next s ∧ exec .encData s = .next t ∧
      exec .encData t = .next t' ∧ s.cfg = t.cfg ∧ s.env ≠ t.env ∧
      (s.env.readChannels s.cfg).1 = (t.env.readChannels t.cfg).1 ∧
      s.lsign = t.lsign ∧ s.aflags = t.aflags) ∧
    (∃ t, exec .encBind (flying armChannels) = .next t) ∧
    (∃ t, exec .encBind { binding 1 with pkt := [] } = .next t) ∧
    (flying armChannels).txa = { binding 1 with pkt := [] }.txa :=
  ⟨⟨_, _, _, rfl, rfl, rfl, rfl, by decide, rfl, rfl, rfl⟩, ⟨_, rfl⟩, ⟨_, rfl⟩, rfl⟩

/-- INIT without the `.txa` directive, with an identifier and with none. -/
theorem witness_initDerives :
    fresh.env.txa = none ∧ (∃ t, exec .init fresh = .next t) ∧
    { fresh.env with txa := some sessionA }.txa = some sessionA ∧
    { fresh.env with serial := [none], fixedId := [some [0x01]] }.readFixedId.1 ≠ none ∧
    ({ fresh.env with serial := [none], fixedId := [none] }.readSerial cfgTest).1 = none ∧
    ({ fresh.env with serial := [none], fixedId := [none] }.readSerial cfgTest).2.readFixedId.1 = none :=
  ⟨rfl, ⟨_, rfl⟩, rfl, by decide, rfl, rfl⟩

theorem witness_initForgets :
    (∃ t, exec .init (flying noChannels) = .next t ∧ t.phase = .written .bind) ∧
    (flying noChannels).phase = .written .data ∧
    (∀ e : Env, e = { (flying armChannels).env with serial := [none], fixedId := [some [0x01]] } ∨
        e = { fresh.env with serial := [none], fixedId := [some [0x01]], power := [7], reads := 9 } →
      (∃ t, exec .init { fresh with env := e } = .next t) ∧
      (flying armChannels).cfg = fresh.cfg ∧ e.txa = none ∧ (e.readSerial cfgTest).1 = none ∧
      (e.readSerial cfgTest).2.readFixedId.1 = some [0x01] ∧
      (e.readSerial cfgTest).2.readFixedId.2.readPower.1 = 7) := by
  refine ⟨⟨_, rfl, rfl⟩, rfl, ?_⟩
  rintro e (rfl | rfl) <;> exact ⟨⟨_, rfl⟩, rfl, rfl, rfl, rfl, rfl⟩

theorem witness_tickStopped : fresh.run = false := rfl

/-- The seeds of the two addresses (V-CRC table 2). -/
theorem test_seed_bindA : (0x2C25 : Half) = crcSeedOf 5 bindA := by decide +kernel

theorem test_seed_sessionA : (0x4098 : Half) = crcSeedOf 5 sessionA := by decide +kernel

theorem sessionA_reads : ∀ i, i < [0xA0, 0xB1, 0xC2, 0xD3, 0xE4].length →
    (framer sessionA 0x4098).laddr.read i = [0xA0, 0xB1, 0xC2, 0xD3, 0xE4][i]? := by decide

/-- A Bind tick that counts down, and the one that switches. -/
theorem witness_bindTick (n : Half) :
    (binding n).run = true ∧ (binding n).phase = .written .bind ∧
    (binding n).txa = .written sessionA ∧ (binding n).bcnt = .written n ∧
    (binding n).txpwr = .written 7 ∧
    FramerReady (binding n) [0xC1, 0x02, 0x03, 0x04, 0x85] (some 0x2C25) :=
  ⟨rfl, rfl, rfl, rfl, rfl, .inr rfl, rfl, witness_framerReady.2.2.1, .inr ⟨0x2C25, rfl, rfl, rfl⟩⟩

theorem witness_dataTick (chan : Vector (List Word) 10) :
    (flying chan).run = true ∧ (flying chan).phase = .written .data ∧
    (flying chan).lsign = .written false ∧ (flying chan).aflags = .written 0 ∧
    (flying chan).txpwr = .written 7 ∧
    FramerReady (flying chan) [0xA0, 0xB1, 0xC2, 0xD3, 0xE4] (some 0x4098) :=
  ⟨rfl, rfl, rfl, rfl, rfl, .inr rfl, rfl, sessionA_reads, .inr ⟨0x4098, rfl, rfl, rfl⟩⟩

/-- The invariant right after power-on, before any INIT. -/
theorem witness_inv_fresh : Inv fresh ∧ NoSession fresh :=
  ⟨⟨witness_cfg_wellFormed, .inl ⟨rfl, rfl, rfl⟩, .inl ⟨rfl, rfl⟩, .inl ⟨rfl, rfl⟩,
    .inl ⟨rfl, rfl, rfl, rfl, rfl, rfl, rfl, rfl⟩⟩, rfl, rfl, rfl, rfl, rfl, rfl, rfl, rfl⟩

/-- The invariant in the Bind phase at the ends of the countdown's range. -/
theorem witness_inv_binding (n : Half) (h : n = 1 ∨ n = 3) : Inv (binding n) ∧ InSession (binding n) := by
  have session : InSession (binding n) := by
    refine ⟨⟨_, rfl⟩, ⟨_, rfl⟩, nofun, ⟨_, rfl⟩, ⟨false, false, rfl, rfl, by simp [binding]⟩, .inl ⟨rfl, n, rfl, ?_⟩⟩
    rcases h with rfl | rfl <;> decide
  exact ⟨⟨witness_cfg_wellFormed, .inr ⟨5, bindA, rfl, congrArg Reg.written test_seed_bindA, rfl⟩, .inl ⟨rfl, rfl⟩, .inl ⟨rfl, rfl⟩,
    .inr session⟩, session⟩

/-- The invariant in the Data phase, armed after one rising edge. -/
theorem witness_inv_flying :
    Inv { flying noChannels with lsign := .written true, armed := .written true,
                                 aflags := .written 0x40 } := by
  refine ⟨witness_cfg_wellFormed, .inr ⟨5, sessionA, rfl, congrArg Reg.written test_seed_sessionA, rfl⟩, .inl ⟨rfl, rfl⟩,
    .inl ⟨rfl, rfl⟩, .inr ⟨⟨_, rfl⟩, ⟨_, rfl⟩, nofun, ⟨_, rfl⟩, ⟨true, false, rfl, rfl, by decide⟩,
      .inr ⟨rfl, rfl⟩⟩⟩

theorem witness_runningTick : Inv (binding 1) ∧ (binding 1).run = true :=
  ⟨(witness_inv_binding 1 (.inl rfl)).1, rfl⟩

theorem witness_stepKeepsInvariant :
    Inv { fresh with cmdIn := [0x51, 0x01] } ∧
    ∃ t, step { binding 1 with cmdIn := [0x01] } = .next t :=
  ⟨⟨witness_cfg_wellFormed, .inl ⟨rfl, rfl, rfl⟩, .inl ⟨rfl, rfl⟩, .inl ⟨rfl, rfl⟩,
    .inl ⟨rfl, rfl, rfl, rfl, rfl, rfl, rfl, rfl⟩⟩, ⟨_, rfl⟩⟩

theorem witness_session_bounds : fresh.cfg.WellFormed ∧ 2 < fresh.cfg.bindCount ∧
    fresh.cfg.bindCount ≤ 3 := by decide

theorem witness_phaseChanges :
    (∃ t, exec .tick (binding 1) = .next t ∧ t.phase ≠ (binding 1).phase) ∧
    (binding 1).phase = .written .bind ∧ (binding 1).bcnt = .written 1 ∧
    (∃ t, exec .init (binding 1) = .next t) ∧
    (∃ t, exec (.arm 1) (binding 1) = .next t) ∧ Instr.arm 1 ≠ .init ∧ Instr.arm 1 ≠ .tick :=
  ⟨⟨_, rfl, by decide⟩, rfl, rfl, ⟨_, rfl⟩, ⟨_, rfl⟩, by decide, by decide⟩

theorem witness_bindIgnoresChannels :
    (binding 2).phase = .written .bind ∧ ∃ t, exec .tick (binding 2) = .next t := ⟨rfl, ⟨_, rfl⟩⟩

/-- LL.SEND of the invariant's framer before any INIT. -/
theorem witness_faultsOnlyBeforeInit :
    framer4.alen ≠ .unwritten ∧ framer4.crcen ≠ .unwritten ∧ NoSession framer4 ∧
    (Instr.crcUpd 0 0 8).wellFormed = true ∧ IsPure (.crcUpd 0 0 8) :=
  ⟨nofun, nofun, ⟨rfl, rfl, rfl, rfl, rfl, rfl, rfl, rfl⟩, by decide, trivial⟩

theorem witness_routed (n : Half) : Routed (binding n) :=
  ⟨rfl, .inl ⟨rfl, rfl, rfl, congrArg Reg.written test_seed_bindA⟩⟩

theorem witness_routed_data : Routed (flying noChannels) :=
  ⟨rfl, .inr ⟨rfl, sessionA, rfl, rfl, rfl, congrArg Reg.written test_seed_sessionA⟩⟩

theorem witness_outputsGrow :
    (∃ t, exec .init fresh = .next t) ∧ ∃ t, step { fresh with cmdIn := [0x00] } = .next t :=
  ⟨⟨_, rfl⟩, ⟨_, rfl⟩⟩

theorem witness_pure : IsPure (.csum [0xFF]) ∧ (Instr.csum [0xFF]).wellFormed = true ∧
    fresh.cfg = cfgTest := ⟨trivial, by decide, rfl⟩

theorem witness_repeated :
    (∃ t u, exec (.llSend [0x00]) framer4 = .next t ∧ exec (.llSend [0x00]) t = .next u) ∧
    ∃ t, exec (.llCfg 0xFF) fresh = .next t := ⟨⟨_, _, rfl, rfl⟩, ⟨_, rfl⟩⟩

end Sys2Proof.Tests
end

section
/-! The frame over all operations (R20, R36): each register changes only under its writers. -/

namespace Sys2Proof.Machine

/-- Everything DEINIT does (R250): the registers keep their values but `RUN`. -/
theorem deinit_eq (s : State) :
    s.deinit =
      { s with
        run := false
        events := s.events ++ [.schedStop, .xReset]
        resp := s.resp ++ [okByte s.env.readResetOk.1]
        env := s.env.readResetOk.2 } := by
  apply State.ext_fields <;> simp [State.deinit]

/-- Settles O52, by cases on the operation: the pure ones only respond (R73), and the law of each other
operation names the registers it writes. Of a Bind- or Data-phase TICK only what the two share is needed. -/
theorem registersHaveTheirWriters : Obligations.RegistersHaveTheirWriters := by
  intro i s t h
  by_cases hp : IsPure i
  · obtain ⟨r, rfl⟩ := exec_pure_next hp h
    simp
  cases i with
  | init =>
    obtain rfl : s.init = t := Host.Outcome.next.inj h
    simp [init_eq]
  | tick =>
    obtain ⟨f, common, -⟩ := exec_tick_next h
    simp [common.crcen, common.txa, common.run, common.run', common.cfg, common.cmdIn]
  | deinit =>
    obtain rfl : s.deinit = t := Host.Outcome.next.inj h
    simp [deinit_eq]
  | llCfg flags =>
    obtain rfl : s.configure flags = t := Host.Outcome.next.inj h
    simp
  | llSetaddr len addr =>
    obtain rfl : s.setAddress len addr = t := Host.Outcome.next.inj h
    simp
  | llSend m =>
    obtain ⟨f, -, rfl⟩ := exec_llSend_next h
    simp
  | arm v =>
    obtain ⟨l, -, rfl | ⟨x, -, rfl⟩⟩ := exec_arm_next h <;> simp
  | encBind =>
    obtain ⟨a, -, rfl⟩ := exec_encBind_next h
    simp
  | encData =>
    obtain ⟨l, y, u, -, -, rfl, rfl | ⟨x, -, rfl⟩⟩ := exec_encData_next h <;> simp
  | crcUpd | crcSeed | crcMsg | scr | scale | csum => exact absurd trivial hp

end Sys2Proof.Machine
end

section
/-! The invariant of the state (R22, R24, R28 to R30, R39): every operation keeps each part of it, by the
frame over all operations (`registersHaveTheirWriters`) where the operation is no writer of the part, and by
the law of the operation where it is. -/

namespace Sys2Proof.Machine

/-- A step that answers a next state is idle, or runs an operation with its bytes taken (R71, R90). -/
theorem step_next {s t : State} (h : step s = .next t) :
    t = s ∨ ∃ i rest, exec i { s with cmdIn := rest } = .next t := by
  unfold step at h
  split at h
  · next i rest _ => exact .inr ⟨i, rest, h⟩
  · exact .inl (Host.Outcome.next.inj h).symm
  all_goals cases h

/-! ### The arm state -/

/-- The arm state is as it was. -/
def ArmKept (s t : State) : Prop :=
  t.lsign = s.lsign ∧ t.armed = s.armed ∧ t.aflags = s.aflags

/-- The arm state took exactly one edge, to sign `b` (R195). -/
def ArmEdge (s t : State) : Prop :=
  ∃ (b : Bool) (x : Byte), s.lsign = .written (!b) ∧ s.aflags = .written x ∧
    t.lsign = .written b ∧ t.armed = .written b ∧ t.aflags = .written (edgeFlags s.cfg b x)

/-- Outside INIT an operation keeps the arm state or takes one edge of it (R197). -/
theorem exec_armKept_or_edge {i : Instr} {s t : State} (h : exec i s = .next t) (hi : i ≠ .init) :
    ArmKept s t ∨ ((i = .tick ∨ i = .encData ∨ ∃ v, i = .arm v) ∧ ArmEdge s t) := by
  obtain ⟨-, -, -, -, -, harm, -⟩ := registersHaveTheirWriters i s t h
  rcases harm with (⟨v, rfl⟩ | rfl | rfl | rfl) | ⟨harmed, haflags, hlsign⟩
  · obtain ⟨l, hl, rfl | ⟨x, hx, rfl⟩⟩ := exec_arm_next h
    · exact .inl ⟨rfl, rfl, rfl⟩
    · exact .inr ⟨.inr (.inr ⟨v, rfl⟩), !l, x, by simp [hl, hx]⟩
  · exact absurd rfl hi
  · obtain ⟨l, y, u, hl, -, rfl, rfl | ⟨x, hx, rfl⟩⟩ := exec_encData_next h
    · exact .inl (by simp [ArmKept])
    · exact .inr ⟨.inr (.inl rfl), !l, x, by simp [hl, hx]⟩
  · obtain ⟨f, -, ⟨a, n, bind⟩ | ⟨l, y, data⟩⟩ := exec_tick_next h
    · exact .inl ⟨bind.lsign, bind.armed, bind.aflags⟩
    · rcases data.edge with kept | ⟨x, hx, hlsign, harmed, haflags⟩
      · exact .inl kept
      · exact .inr ⟨.inl rfl, !l, x, by simp [data.lsign], hx, hlsign, harmed, haflags⟩
  · exact .inl ⟨hlsign, harmed, haflags⟩

/-- Settles O30, by the writers of the arm state: ARM, ENC.DATA and the Data-phase TICK run the tracker
once, and the Bind-phase TICK leaves it alone. -/
theorem armFlagsChangeOnlyWithTheSign : Obligations.ArmFlagsChangeOnlyWithTheSign := by
  intro i s t h hi
  refine (exec_armKept_or_edge h hi).imp_right fun ⟨hop, b, x, hl, hx, hlsign, harmed, haflags⟩ =>
    ⟨hop, b, x, hl, hx, hlsign, harmed, ?_⟩
  cases b <;> exact haflags

/-- A rising edge flips the parity of the rising edges, a falling edge that of the falling ones. -/
theorem edgeFlags_parity (c : Cfg) (b r f : Bool) :
    edgeFlags c b ((if r then c.armBit else 0) ^^^ (if f then c.disarmBit else 0)) =
      (if r ^^ b then c.armBit else 0) ^^^ (if f ^^ !b then c.disarmBit else 0) := by
  cases b
  · cases f <;> simp [edgeFlags]
  · cases r <;> simp [edgeFlags, BitVec.xor_comm]

/-- An edge keeps the shape of the arm state: the sign is the parity of all edges (R195 (b)). -/
theorem ArmState.edge {s t : State} (h : ArmState s) (hcfg : t.cfg = s.cfg) (he : ArmEdge s t) :
    ArmState t := by
  obtain ⟨r, f, hl, -, hx⟩ := h
  obtain ⟨b, x, hlb, hxx, hlsign, harmed, haflags⟩ := he
  obtain rfl := Reg.written.inj (hx.symm.trans hxx)
  have hb : (!b) = (r ^^ f) := Reg.written.inj (hlb.symm.trans hl)
  have sign : b = ((r ^^ b) ^^ (f ^^ !b)) := by
    cases r <;> cases f <;> cases b <;> simp at hb ⊢
  rw [edgeFlags_parity] at haflags
  exact ⟨r ^^ b, f ^^ !b, hlsign.trans (congrArg _ sign), harmed.trans (congrArg _ sign),
    hcfg ▸ haflags⟩

/-- Outside INIT every operation keeps the arm state's shape (R30). -/
theorem exec_keeps_armState {i : Instr} {s t : State} (ha : ArmState s) (h : exec i s = .next t)
    (hi : i ≠ .init) : ArmState t := by
  obtain ⟨-, -, -, -, -, -, -, -, -, hcfg, -⟩ := registersHaveTheirWriters i s t h
  rcases exec_armKept_or_edge h hi with ⟨hlsign, harmed, haflags⟩ | ⟨-, edge⟩
  · simpa only [ArmState, hlsign, harmed, haflags, hcfg] using ha
  · exact ha.edge hcfg edge

/-! ### The address, the packet and the frame -/

/-- A written `ALEN` is one a `setaddr` left: 4 or 5 (R163). -/
theorem AddressCoherent.alen_toNat {s : State} (h : AddressCoherent s) {alen : BitVec 3}
    (ha : s.alen = .written alen) : alen.toNat = 4 ∨ alen.toNat = 5 := by
  rcases h with ⟨hu, -, -⟩ | ⟨len, addr, hw, -, -⟩
  · rw [hu] at ha; cases ha
  · obtain rfl := Reg.written.inj (hw.symm.trans ha)
    rcases clampLen_cases len with h | h <;> simp [h]

/-- A frame built for a coherent address has 8 to 26 bytes (R176). -/
theorem buildFrame_length {m : List Byte} {s : State} {f : List Byte} (ha : AddressCoherent s)
    (h : buildFrame m s = .ok f) : 8 ≤ f.length ∧ f.length ≤ 26 := by
  obtain ⟨alen, crcen, addr, g, seed, halen, -, hread, -, -, rfl⟩ := buildFrame_eq_ok.1 h
  have hlen := (readAddrDown_eq_ok.1 hread).1
  have := ha.alen_toNat halen
  rw [frameBytes_length]
  split <;> omega

/-- `LADDR`, `ALEN` and `SEED` are as they were. -/
def AddressKept (s t : State) : Prop := t.alen = s.alen ∧ t.seed = s.seed ∧ t.laddr = s.laddr

/-- `LADDR`, `ALEN` and `SEED` are those one `setaddr` leaves (R162). -/
def AddressSet (t : State) : Prop :=
  ∃ (len : Byte) (addr : Addr), t.alen = .written (BitVec.ofNat 3 (clampLen len)) ∧
    t.seed = .written (crcSeedOf len addr) ∧ t.laddr = Memory.ofBytes (usedAddr len addr)

theorem AddressCoherent.of_kept {s t : State} (ha : AddressCoherent s) (hk : AddressKept s t) :
    AddressCoherent t := by
  obtain ⟨halen, hseed, hladdr⟩ := hk
  simpa only [AddressCoherent, halen, hseed, hladdr] using ha

/-- Over all operations the three address registers are written together or not at all (R24). -/
theorem exec_addressKept_or_set {i : Instr} {s t : State} (h : exec i s = .next t) :
    AddressKept s t ∨ AddressSet t := by
  obtain ⟨haddr, -⟩ := registersHaveTheirWriters i s t h
  rcases haddr with (⟨len, addr, rfl⟩ | rfl | rfl) | ⟨hladdr, halen, hseed⟩
  · obtain rfl : s.setAddress len addr = t := Host.Outcome.next.inj h
    exact .inr ⟨len, addr, rfl, rfl, rfl⟩
  · obtain rfl : s.init = t := Host.Outcome.next.inj h
    exact .inr ⟨fullLen, s.cfg.bindAddr, by simp [init_eq]⟩
  · obtain ⟨f, -, ⟨a, n, bind⟩ | ⟨l, y, data⟩⟩ := exec_tick_next h
    · by_cases hn : n = 1
      · obtain ⟨-, hladdr, halen, hseed⟩ := bind.last hn
        exact .inr ⟨fullLen, a, halen, hseed, hladdr⟩
      · obtain ⟨-, hladdr, halen, hseed⟩ := bind.more hn
        exact .inl ⟨halen, hseed, hladdr⟩
    · exact .inl ⟨data.alen, data.seed, data.laddr⟩
  · exact .inl ⟨halen, hseed, hladdr⟩

theorem exec_keeps_address {i : Instr} {s t : State} (ha : AddressCoherent s)
    (h : exec i s = .next t) : AddressCoherent t :=
  (exec_addressKept_or_set h).elim ha.of_kept .inr

/-- Only the encoders write the packet, and each leaves a whole one (R61, R211). -/
theorem exec_keeps_packet {i : Instr} {s t : State} (hp : PacketCoherent s)
    (h : exec i s = .next t) : PacketCoherent t := by
  obtain ⟨-, -, -, -, -, -, -, hpkt, -⟩ := registersHaveTheirWriters i s t h
  rcases hpkt with (rfl | rfl | rfl) | ⟨hpkt, hplen⟩
  · obtain ⟨a, -, rfl⟩ := exec_encBind_next h
    exact .inr (.inl ⟨a, rfl, rfl⟩)
  · obtain ⟨l, y, u, -, -, rfl, -⟩ := exec_encData_next h
    exact .inr (.inr ⟨dataBody s.cfg _ y, rfl, rfl, rfl⟩)
  · obtain ⟨f, -, ⟨a, n, bind⟩ | ⟨l, y, data⟩⟩ := exec_tick_next h
    · exact .inr (.inl ⟨a, bind.plen, bind.pkt⟩)
    · exact .inr (.inr ⟨dataBody s.cfg _ y, rfl, data.plen, data.pkt⟩)
  · simpa only [PacketCoherent, hpkt, hplen] using hp

/-- The frame a tick sends is built from the framer's registers before it (R170, R241, R242). -/
theorem exec_tick_sent {s t : State} (h : exec .tick s = .next t) :
    ∃ p f, SentFrom s p f ∧ TickCommon s t f := by
  obtain ⟨f, common, ⟨a, n, bind⟩ | ⟨l, y, data⟩⟩ := exec_tick_next h
  · exact ⟨_, f, bind.sent, common⟩
  · exact ⟨_, f, data.sent, common⟩

/-- Only LL.SEND and TICK write the frame, and each leaves a whole one (R62, R176). -/
theorem exec_keeps_frame {i : Instr} {s t : State} (ha : AddressCoherent s) (hf : FrameCoherent s)
    (h : exec i s = .next t) : FrameCoherent t := by
  obtain ⟨-, -, -, -, -, -, -, -, hframe, -⟩ := registersHaveTheirWriters i s t h
  rcases hframe with (⟨m, rfl⟩ | rfl) | ⟨hframe, hflen⟩
  · obtain ⟨f, hbuild, rfl⟩ := exec_llSend_next h
    obtain ⟨hmin, hmax⟩ := buildFrame_length ha hbuild
    exact .inr ⟨f, hmin, hmax, rfl, rfl⟩
  · obtain ⟨p, f, ⟨u, hbuild, halen, hseed, hladdr, -⟩, common⟩ := exec_tick_sent h
    obtain ⟨hmin, hmax⟩ := buildFrame_length (ha.of_kept ⟨halen, hseed, hladdr⟩) hbuild
    exact .inr ⟨f, hmin, hmax, common.flen, common.frame⟩
  · simpa only [FrameCoherent, hframe, hflen] using hf

/-! ### The session -/

/-- INIT writes every session register, whatever they held (R49, R236). -/
theorem init_inSession {s : State} (hw : s.cfg.WellFormed) : InSession s.init := by
  obtain ⟨-, -, -, -, -, -, -, -, -, ⟨hmin, hmax⟩, -⟩ := hw
  have hcount : (BitVec.ofNat 16 s.cfg.bindCount).toNat = s.cfg.bindCount :=
    Nat.mod_eq_of_lt (by omega)
  rw [init_eq]
  exact ⟨⟨_, rfl⟩, ⟨_, rfl⟩, nofun, ⟨_, rfl⟩, ⟨false, false, rfl, rfl, by simp⟩,
    .inl ⟨rfl, _, rfl, hcount.symm ▸ hmin, hcount.le⟩⟩

/-- Before the first INIT the tick, the tracker and ENC.DATA do not complete, and the rest write none
of INIT's registers (R20, R22). -/
theorem exec_keeps_noSession {i : Instr} {s t : State} (hn : NoSession s) (h : exec i s = .next t)
    (hi : i ≠ .init) : NoSession t := by
  obtain ⟨hrun, htxa, hphase, hbcnt, harmed, haflags, hlsign, htxpwr⟩ := hn
  obtain ⟨-, -, -, htxa', hphase', -, hrun', -⟩ := registersHaveTheirWriters i s t h
  have notTick : i ≠ .tick := by
    rintro rfl
    obtain ⟨_, common, -⟩ := exec_tick_next h
    exact absurd (hrun.symm.trans common.run) (by decide)
  obtain ⟨hphase', hbcnt', htxpwr'⟩ := hphase'.resolve_left (by simp [hi, notTick])
  obtain ⟨hlsign', harmed', haflags'⟩ : ArmKept s t := by
    refine (exec_armKept_or_edge h hi).resolve_right ?_
    rintro ⟨-, b, x, hl, -⟩
    rw [hlsign] at hl
    cases hl
  refine ⟨?_, (htxa'.resolve_left hi).trans htxa, hphase'.trans hphase, hbcnt'.trans hbcnt,
    harmed'.trans harmed, haflags'.trans haflags, hlsign'.trans hlsign, htxpwr'.trans htxpwr⟩
  rcases hrun' with (rfl | rfl) | hrun'
  · exact absurd rfl hi
  · obtain rfl : s.deinit = t := Host.Outcome.next.inj h
    simp [deinit_eq]
  · exact hrun'.trans hrun

/-- A tick of the Bind phase counts down within the range, and the last one ends in Data at 0 (R29). -/
theorem exec_keeps_phaseState {i : Instr} {s t : State} (hp : PhaseState s)
    (h : exec i s = .next t) (hi : i ≠ .init) : PhaseState t := by
  obtain ⟨-, -, -, -, hphase, -, -, -, -, hcfg, -⟩ := registersHaveTheirWriters i s t h
  rcases hphase with (rfl | rfl) | ⟨hphase, hbcnt, -⟩
  · exact absurd rfl hi
  · obtain ⟨f, -, ⟨a, n, bind⟩ | ⟨l, y, data⟩⟩ := exec_tick_next h
    · rcases hp with ⟨-, k, hk, hmin, hmax⟩ | ⟨hdata, -⟩
      · obtain rfl := Reg.written.inj (bind.bcnt.symm.trans hk)
        by_cases hn : n = 1
        · exact .inr ⟨(bind.last hn).1, by rw [bind.bcnt', hn]; rfl⟩
        · have hlt : (n - 1).toNat = n.toNat - 1 := by bv_omega
          have hne : n.toNat ≠ 1 := fun h => hn (BitVec.eq_of_toNat_eq h)
          exact .inl ⟨(bind.more hn).1, n - 1, bind.bcnt', by omega, by rw [hcfg]; omega⟩
      · exact absurd (bind.phase.symm.trans hdata) (by decide)
    · rcases hp with ⟨hbind, -⟩ | ⟨-, hbcnt⟩
      · exact absurd (hbind.symm.trans data.phase) (by decide)
      · exact .inr ⟨data.phase', data.bcnt.trans hbcnt⟩
  · simpa only [PhaseState, hphase, hbcnt, hcfg] using hp

/-- A session ends in no operation: every register it needs stays written (R22). -/
theorem exec_keeps_inSession {i : Instr} {s t : State} (hs : InSession s)
    (h : exec i s = .next t) (hi : i ≠ .init) : InSession t := by
  obtain ⟨htxa, htxpwr, halen, hcrcen, harm, hphase⟩ := hs
  obtain ⟨-, hcrcen', -, htxa', htxpwr', -⟩ := registersHaveTheirWriters i s t h
  refine ⟨htxa'.resolve_left hi ▸ htxa, ?_, ?_, ?_, exec_keeps_armState harm h hi,
    exec_keeps_phaseState hphase h hi⟩
  · rcases htxpwr' with (rfl | rfl) | ⟨-, -, htxpwr'⟩
    · exact absurd rfl hi
    · obtain ⟨f, common, -⟩ := exec_tick_next h
      exact ⟨_, common.txpwr⟩
    · exact htxpwr' ▸ htxpwr
  · rcases exec_addressKept_or_set h with ⟨halen', -, -⟩ | ⟨len, addr, halen', -, -⟩
    · exact halen' ▸ halen
    · simp [halen']
  · rcases hcrcen' with (⟨flags, rfl⟩ | rfl) | hcrcen'
    · obtain rfl : s.configure flags = t := Host.Outcome.next.inj h
      exact ⟨_, rfl⟩
    · exact absurd rfl hi
    · exact hcrcen' ▸ hcrcen

/-! ### The whole invariant -/

theorem exec_keeps_inv {i : Instr} {s t : State} (hs : Inv s) (h : exec i s = .next t) : Inv t where
  cfg := by
    obtain ⟨-, -, -, -, -, -, -, -, -, hcfg, -⟩ := registersHaveTheirWriters i s t h
    exact hcfg ▸ hs.cfg
  address := exec_keeps_address hs.address h
  packet := exec_keeps_packet hs.packet h
  frame := exec_keeps_frame hs.address hs.frame h
  session := by
    by_cases hi : i = .init
    · subst hi
      obtain rfl : s.init = t := Host.Outcome.next.inj h
      exact .inr (init_inSession hs.cfg)
    · exact hs.session.imp (exec_keeps_noSession · h hi) (exec_keeps_inSession · h hi)

/-- The invariant does not look at the command port. -/
theorem Inv.withCmdIn {s : State} (h : Inv s) (bs : List Byte) : Inv { s with cmdIn := bs } :=
  ⟨h.cfg, h.address, h.packet, h.frame, h.session⟩

/-- Settles O47: a step is idle or runs an operation with its bytes taken, and every operation keeps
each part of the invariant. -/
theorem stepKeepsTheInvariant : Obligations.StepKeepsTheInvariant := by
  intro s t hs h
  rcases step_next h with rfl | ⟨i, rest, h⟩
  · exact hs
  · exact exec_keeps_inv (hs.withCmdIn rest) h

end Sys2Proof.Machine
end

section
/-! ENC.DATA from a state whose arm registers are written: the tracker's state, then the packet (R215). -/

namespace Sys2Proof.Machine

/-! ### The tracker and ENC.DATA with `LSIGN` and `AFLAGS` written -/

/-- `AFLAGS` after the tracker saw sign `sgn`, `l` the sign remembered and `x` the flags before (R195). -/
def trackedFlags (c : Cfg) (sgn l : Bool) (x : Byte) : Byte :=
  if sgn = l then x else edgeFlags c sgn x

/-- The state the tracker leaves; on a sustained sign it is the state before (R195). -/
def State.tracked (s : State) (sgn l : Bool) (x : Byte) : State :=
  { s with
    lsign := .written sgn
    armed := if sgn = l then s.armed else .written sgn
    aflags := .written (trackedFlags s.cfg sgn l x) }

/-- With both its registers written the tracker completes, on an edge or not (R195). -/
theorem armTrack_tracked {s : State} {l : Bool} {x : Byte} (hl : s.lsign = .written l)
    (hx : s.aflags = .written x) (v : Word) :
    armTrack v s = .ok (s.tracked (positive v) l x) := by
  rw [armTrack_eq_ok]
  refine ⟨l, hl, ?_⟩
  by_cases hv : positive v = l
  · exact .inl ⟨hv, by ext1 <;> simp [State.tracked, trackedFlags, hv, hl, hx]⟩
  · exact .inr ⟨hv, x, hx, by ext1 <;> simp [State.tracked, trackedFlags, hv]⟩

theorem encodeData_tracked {s : State} {l : Bool} {x : Byte} (hl : s.lsign = .written l)
    (hx : s.aflags = .written x) :
    let ch := s.env.readChannels s.cfg
    let p := dataPacket s.cfg ch.1 (trackedFlags s.cfg (positive ch.1.arm) l x)
    encodeData s =
      .ok (p, ((s.withEnv ch.2).tracked (positive ch.1.arm) l x).storePacket p) :=
  encodeData_eq_ok.2 ⟨_, _,
    armTrack_tracked (s := s.withEnv (s.env.readChannels s.cfg).2) hl hx _, rfl, rfl⟩

theorem exec_encData_tracked {s : State} {l : Bool} {x : Byte} (hl : s.lsign = .written l)
    (hx : s.aflags = .written x) :
    let ch := s.env.readChannels s.cfg
    let p := dataPacket s.cfg ch.1 (trackedFlags s.cfg (positive ch.1.arm) l x)
    exec .encData s =
      .next ((((s.withEnv ch.2).tracked (positive ch.1.arm) l x).storePacket p).respond p) :=
  Eff.outcome_eq_next.2 (respondPacket_eq_ok.2 ⟨_, encodeData_tracked hl hx, rfl⟩)

/-! ### The data packet (R111, R210) -/

/-- The accumulator is the sum modulo 256 (R210). -/
theorem checksum_toNat (m : List Byte) :
    (checksum m).toNat = (m.map BitVec.toNat).sum % 256 := by
  suffices h : ∀ b : Byte, (m.foldl (· + ·) b).toNat = (b.toNat + (m.map BitVec.toNat).sum) % 256 by
    simpa [checksum] using h 0
  induction m with
  | nil => intro b; simp; omega
  | cons a m ih =>
    intro b
    simp only [List.foldl_cons, ih, BitVec.toNat_add, List.map_cons, List.sum_cons]
    omega

theorem checksum_eq_ofNat (m : List Byte) :
    BitVec.ofNat 8 ((m.map BitVec.toNat).sum % 256) = checksum m := by
  rw [← checksum_toNat, BitVec.ofNat_toNat, BitVec.setWidth_eq]

/-- Settles O34: ENC.DATA is the tracker, then the packet of the channels read; with every channel held,
the reads are those of `readChannels_held`. -/
theorem encDataBuildsTheDataPacket : Obligations.EncDataBuildsTheDataPacket := by
  intro l x s hl hx c ch sgn y on body p
  have hy : trackedFlags c sgn l x = y := rfl
  have hp : p = dataPacket c ch y := congrArg (fun b => body ++ [b]) (checksum_eq_ofNat body)
  have run : exec .encData s = .next ((((s.withEnv (s.env.readChannels c).2).tracked sgn l
      x).storePacket (dataPacket c ch y)).respond (dataPacket c ch y)) := exec_encData_tracked hl hx
  rw [hp]
  refine ⟨_, run, by simp, by simp, by simp, ?_, ?_, ?_, ?_, rfl, ?_, fun v hv => ?_⟩
  · simp [State.tracked]
  · simp [State.tracked]
  · simp [State.tracked, ← hy, c]
  · simp [State.tracked]
  · apply State.ext_fields <;> simp [State.tracked]
  · have held := readChannels_held hv c
    exact ⟨congrArg Prod.fst held, congrArg Prod.snd held⟩

end Sys2Proof.Machine
end

section
/-! Which register a fault names, the packet-id, and which operations complete (R22, R26, R272, R303). -/

namespace Sys2Proof.Machine

/-! ### Where LL.SEND faults (R170, R272) -/

/-- Reading the address down faults at the highest unwritten index below `n`. -/
theorem readAddrDown_faults {m : Memory} {n j : Nat} (hj : j < n) (hm : m.read j = none)
    (habove : ∀ k, j < k → k < n → m.read k ≠ none) :
    readAddrDown m n = .error (.readOfUnwritten (.laddr j)) := by
  induction n with
  | zero => exact absurd hj (Nat.not_lt_zero j)
  | succ n ih =>
    rw [readAddrDown, Eff.bind_eq_error]
    rcases Nat.lt_succ_iff_lt_or_eq.1 hj with hlt | rfl
    · obtain ⟨b, hb⟩ := Option.ne_none_iff_exists'.1 (habove n hlt (Nat.lt_succ_self n))
      have rest := ih hlt fun k hjk hkn => habove k hjk (by omega)
      exact .inr ⟨b, Memory.readReg_eq_ok.2 hb, by rw [rest]; rfl⟩
    · exact .inl (Memory.readReg_eq_error.2 ⟨hm, rfl⟩)

/-- Reading the address down completes when every index below `n` is written. -/
theorem readAddrDown_completes {m : Memory} {n : Nat} (h : ∀ k, k < n → m.read k ≠ none) :
    ∃ bs, readAddrDown m n = .ok bs := by
  induction n with
  | zero => exact ⟨[], rfl⟩
  | succ n ih =>
    obtain ⟨b, hb⟩ := Option.ne_none_iff_exists'.1 (h n (Nat.lt_succ_self n))
    obtain ⟨bs, hbs⟩ := ih fun k hk => h k (by omega)
    exact ⟨b :: bs, by rw [readAddrDown, Memory.readReg_eq_ok.2 hb, hbs]; rfl⟩

theorem exec_llSend_fault_of_buildFrame {m : List Byte} {s : State} {e : Fault}
    (h : buildFrame m s = .error e) : exec (.llSend m) s = .fault e := by
  simp [exec, execLlSend, send, h]

theorem exec_llSend_unwritten_alen {m : List Byte} {s : State} (ha : s.alen = .unwritten) :
    exec (.llSend m) s = .fault (.readOfUnwritten .alen) :=
  exec_llSend_fault_of_buildFrame (by simp [buildFrame, ha])

theorem exec_llSend_unwritten_crcen {m : List Byte} {s : State} {a : BitVec 3}
    (ha : s.alen = .written a) (hc : s.crcen = .unwritten) :
    exec (.llSend m) s = .fault (.readOfUnwritten .crcen) :=
  exec_llSend_fault_of_buildFrame (by simp [buildFrame, ha, hc])

theorem exec_llSend_unwritten_laddr {m : List Byte} {s : State} {a : BitVec 3} {c : Bool} {j : Nat}
    (ha : s.alen = .written a) (hc : s.crcen = .written c) (hj : j < a.toNat)
    (hread : s.laddr.read j = none) (habove : ∀ k, j < k → k < a.toNat → s.laddr.read k ≠ none) :
    exec (.llSend m) s = .fault (.readOfUnwritten (.laddr j)) :=
  exec_llSend_fault_of_buildFrame (by simp [buildFrame, ha, hc, readAddrDown_faults hj hread habove])

theorem exec_llSend_unwritten_seed {m : List Byte} {s : State} {a : BitVec 3}
    (ha : s.alen = .written a) (hpos : 0 < a.toNat) (hc : s.crcen = .written true)
    (hread : ∀ k, k < a.toNat → s.laddr.read k ≠ none) (hs : s.seed = .unwritten) :
    exec (.llSend m) s = .fault (.readOfUnwritten .seed) := by
  obtain ⟨addr, haddr⟩ := readAddrDown_completes hread
  obtain ⟨g, hg⟩ := Option.ne_none_iff_exists'.1 (hread 0 hpos)
  exact exec_llSend_fault_of_buildFrame
    (by simp [buildFrame, ha, hc, haddr, Memory.readReg_eq_ok.2 hg, readSeed, hs])

/-! ### Where the encoders and the tracker fault (R195, R214, R215, R272) -/

theorem exec_encBind_unwritten_txa {s : State} (h : s.txa = .unwritten) :
    exec .encBind s = .fault (.readOfUnwritten .txa) := by
  simp [exec, execEncBind, respondPacket, encodeBind, h]

theorem exec_arm_unwritten_lsign {v : Word} {s : State} (h : s.lsign = .unwritten) :
    exec (.arm v) s = .fault (.readOfUnwritten .lsign) :=
  Eff.outcome_eq_fault.2 (armTrack_eq_error.2 (.inl ⟨h, rfl⟩))

theorem exec_arm_unwritten_aflags {v : Word} {s : State} {l : Bool} (hl : s.lsign = .written l)
    (hv : positive v ≠ l) (hx : s.aflags = .unwritten) :
    exec (.arm v) s = .fault (.readOfUnwritten .aflags) :=
  Eff.outcome_eq_fault.2 (armTrack_eq_error.2 (.inr ⟨l, hl, hv, hx, rfl⟩))

theorem exec_arm_sustained {v : Word} {s : State} {l : Bool} (hl : s.lsign = .written l)
    (hv : positive v = l) : exec (.arm v) s = .next s :=
  Eff.outcome_eq_next.2 (armTrack_eq_ok.2 ⟨l, hl, .inl ⟨hv, rfl⟩⟩)

theorem exec_encData_fault_of_encodeData {s : State} {e : Fault} (h : encodeData s = .error e) :
    exec .encData s = .fault e := by
  simp [exec, execEncData, respondPacket, h]

theorem exec_encData_unwritten_lsign {s : State} (h : s.lsign = .unwritten) :
    exec .encData s = .fault (.readOfUnwritten .lsign) :=
  exec_encData_fault_of_encodeData (Eff.bind_eq_error.2 (.inl (armTrack_eq_error.2 (.inl ⟨h, rfl⟩))))

/-- `AFLAGS` unwritten stops the tracker on an edge, and the packet's own read otherwise. -/
theorem exec_encData_unwritten_aflags {s : State} {l : Bool} (hl : s.lsign = .written l)
    (hx : s.aflags = .unwritten) : exec .encData s = .fault (.readOfUnwritten .aflags) := by
  refine exec_encData_fault_of_encodeData (Eff.bind_eq_error.2 ?_)
  by_cases hv : positive (s.env.readChannels s.cfg).1.arm = l
  · exact .inr ⟨_, armTrack_eq_ok.2 ⟨l, hl, .inl ⟨hv, rfl⟩⟩, by simp [hx]⟩
  · exact .inl (armTrack_eq_error.2 (.inr ⟨l, hl, hv, hx, rfl⟩))

/-- Settles O24, one clause per register in the order of the pseudocode. -/
theorem faultsNameTheFirstUnwrittenRegister : Obligations.FaultsNameTheFirstUnwrittenRegister :=
  fun _ _ _ =>
    ⟨exec_llSend_unwritten_alen,
     fun _ => exec_llSend_unwritten_crcen,
     fun _ _ _ => exec_llSend_unwritten_laddr,
     fun _ => exec_llSend_unwritten_seed,
     exec_encBind_unwritten_txa,
     fun h => ⟨exec_arm_unwritten_lsign h, exec_encData_unwritten_lsign h⟩,
     fun _ => exec_arm_unwritten_aflags,
     fun _ => exec_arm_sustained,
     fun _ => exec_encData_unwritten_aflags⟩

/-! ### The packet-id (R26) -/

/-- The packet-id is the control byte's low two bits (R103). -/
@[simp] theorem controlByte_pid (n : Nat) (pid : BitVec 2) :
    (controlByte n pid).extractLsb' 0 2 = pid := by
  ext i hi
  have : i < 8 := by omega
  simp [controlByte, this, Nat.le_of_lt_succ hi]

/-- The control byte follows the address and its two guard bytes (R100, R103). -/
theorem buildFrame_controlByte {m : List Byte} {s : State} {f : List Byte} {alen : BitVec 3}
    (h : buildFrame m s = .ok f) (ha : s.alen = .written alen) :
    f[alen.toNat + 2]? = some (controlByte (truncated m).length s.pid) := by
  obtain ⟨alen', crcen, addr, g, seed, ha', -, hread, -, -, rfl⟩ := buildFrame_eq_ok.1 h
  obtain rfl := Reg.written.inj (ha'.symm.trans ha)
  rw [← (readAddrDown_eq_ok.1 hread).1]
  simp [frameBytes]

/-- Settles O23: by the writers of `PID`, and by the place of the control byte in the frame. -/
theorem packetIdAdvancesOncePerSend : Obligations.PacketIdAdvancesOncePerSend := by
  refine ⟨fun i s t h => ?_, fun m s t alen h ha => ?_, rfl⟩
  · obtain ⟨-, -, hpid, -⟩ := registersHaveTheirWriters i s t h
    cases i with
    | init =>
      obtain rfl : s.init = t := Host.Outcome.next.inj h
      simp [init_eq]
    | tick =>
      obtain ⟨f, common, -⟩ := exec_tick_next h
      exact common.pid
    | llSend m =>
      obtain ⟨f, -, rfl⟩ := exec_llSend_next h
      rfl
    | _ => exact hpid.resolve_left (by simp)
  · obtain ⟨f, hbuild, rfl⟩ := exec_llSend_next h
    exact ⟨f, _, by simp, buildFrame_controlByte hbuild ha, controlByte_pid _ _⟩

/-! ### Completion of the operations (R22, R303) -/

/-- `ALEN` written, so are `SEED` and every address byte in use: the framer needs `CRCEN` besides (R170). -/
theorem AddressCoherent.buildFrame_completes {s : State} (h : AddressCoherent s)
    (ha : s.alen ≠ .unwritten) (hc : s.crcen ≠ .unwritten) (m : List Byte) :
    ∃ f, buildFrame m s = .ok f := by
  rcases h with ⟨hu, -, -⟩ | ⟨len, addr, halen, hseed, hladdr⟩
  · exact absurd hu ha
  · have hlen : (BitVec.ofNat 3 (clampLen len)).toNat = (usedAddr len addr).length := by
      rcases clampLen_cases len with h | h <;> simp [h]
    have hread := readAddrDown_ofBytes (usedAddr len addr)
    rw [← hlen, ← hladdr] at hread
    obtain ⟨g, hg⟩ : ∃ g, s.laddr.read 0 = some g := by
      rw [hladdr, Memory.read_ofBytes]
      exact ⟨addr.a0, by rcases clampLen_cases len with h | h <;> simp [usedAddr, h, Addr.toList]⟩
    cases hcr : s.crcen with
    | unwritten => exact absurd hcr hc
    | written crcen =>
      obtain ⟨seed, hsd⟩ : ∃ seed, readSeed s crcen = .ok seed := by
        cases crcen
        · exact ⟨none, rfl⟩
        · exact ⟨_, by rw [readSeed_on, hseed]; rfl⟩
      exact ⟨_, buildFrame_eq_ok.2 ⟨_, _, _, _, _, halen, hcr, hread, hg, hsd, rfl⟩⟩

theorem exec_llSend_completes {s : State} (h : AddressCoherent s) (ha : s.alen ≠ .unwritten)
    (hc : s.crcen ≠ .unwritten) (m : List Byte) : ∃ t, exec (.llSend m) s = .next t := by
  obtain ⟨f, hf⟩ := h.buildFrame_completes ha hc m
  exact ⟨s.submit f, Eff.outcome_eq_next.2 (send_eq_ok.2 ⟨f, hf, rfl⟩)⟩

theorem exec_pure_completes {i : Instr} (hp : IsPure i) (hw : i.wellFormed = true) (s : State) :
    ∃ t, exec i s = .next t := by
  cases i with
  | crcUpd crc a n => exact ⟨_, if_pos hw⟩
  | crcSeed | crcMsg | scr | scale | csum => exact ⟨_, rfl⟩
  | _ => exact hp.elim

/-- A pure operation reads no register, so it can only be refused (R73). -/
theorem exec_pure_ne_fault {i : Instr} (hp : IsPure i) (s : State) (e : Fault) :
    exec i s ≠ .fault e := by
  cases i with
  | crcUpd crc a n =>
    simp only [exec, execCrcUpd]
    split <;> nofun
  | crcSeed | crcMsg | scr | scale | csum => nofun
  | _ => exact hp.elim

/-- In a session either phase's part of a tick completes: its encoder leaves the framer's registers alone,
and neither moves `TXPWR` (R241, R242). -/
theorem phaseTick_completes {s : State} (ha : AddressCoherent s) (hs : InSession s) (ph : Phase) :
    ∃ t, phaseTick ph s = .ok t ∧ t.txpwr = s.txpwr := by
  obtain ⟨⟨a, htxa⟩, -, halen, ⟨b, hcrcen⟩, ⟨r, e, hlsign, -, haflags⟩, hphase⟩ := hs
  have built {u : State} (hk : AddressKept s u) (hc : u.crcen = s.crcen) (m : List Byte) :
      ∃ f, buildFrame m u = .ok f :=
    (ha.of_kept hk).buildFrame_completes (hk.1 ▸ halen) (by simp [hc, hcrcen]) m
  cases ph with
  | bind =>
    obtain ⟨n, hbcnt⟩ : ∃ n, s.bcnt = .written n := by
      rcases hphase with ⟨-, n, hn, -⟩ | ⟨-, h0⟩
      · exact ⟨n, hn⟩
      · exact ⟨0, h0⟩
    obtain ⟨f, hf⟩ := built (u := s.storePacket (bindPacket a)) ⟨rfl, rfl, rfl⟩ rfl (bindPacket a)
    refine ⟨_, bindTick_eq_ok.2 ⟨a, f, n, htxa, hf, hbcnt, rfl⟩, ?_⟩
    split <;> simp
  | data =>
    obtain ⟨p, u, enc, hk, hc, hp⟩ : ∃ p u, encodeData s = .ok (p, u) ∧ AddressKept s u ∧
        u.crcen = s.crcen ∧ u.txpwr = s.txpwr :=
      ⟨_, _, encodeData_tracked hlsign haflags, by simp [AddressKept, State.tracked]⟩
    obtain ⟨f, hf⟩ := built hk hc p
    exact ⟨u.submit f, dataTick_eq_ok.2 ⟨(p, u), f, enc, hf, rfl⟩, hp⟩

/-- A tick of a running session completes (R240 (a)). -/
theorem exec_tick_completes {s : State} (ha : AddressCoherent s) (hs : InSession s)
    (hrun : s.run = true) : ∃ t, exec .tick s = .next t := by
  have ⟨_, ⟨p, hp⟩, _, _, _, hphase⟩ := hs
  obtain ⟨ph, hph⟩ : ∃ ph, s.phase = .written ph := by
    rcases hphase with ⟨h, -⟩ | ⟨h, -⟩
    exacts [⟨_, h⟩, ⟨_, h⟩]
  obtain ⟨t, ht, htxpwr⟩ := phaseTick_completes (s := s.withEnv s.env.readPower.2) ha hs ph
  exact ⟨_, execTick_eq_next.2 ⟨hrun, tickBody_eq_ok.2 ⟨ph, t, _, hph, ht,
    applyPower_eq_ok.2 ⟨p, htxpwr.trans hp, rfl⟩, rfl⟩⟩⟩

theorem exec_tick_stopped {s : State} (h : s.run = false) :
    exec .tick s = .refused .tickWhileStopped := by
  simp [exec, execTick, h]

theorem exec_ne_fault_of_next {i : Instr} {s : State} (h : ∃ t, exec i s = .next t) (e : Fault) :
    exec i s ≠ .fault e := by
  obtain ⟨t, ht⟩ := h
  simp [ht]

theorem exec_arm_completes {s : State} {l : Bool} {x : Byte} (hl : s.lsign = .written l)
    (hx : s.aflags = .written x) (v : Word) : ∃ t, exec (.arm v) s = .next t :=
  ⟨_, Eff.outcome_eq_next.2 (armTrack_tracked hl hx v)⟩

theorem exec_encBind_completes {s : State} {a : Addr} (ha : s.txa = .written a) :
    ∃ t, exec .encBind s = .next t :=
  ⟨_, Eff.outcome_eq_next.2 (respondPacket_eq_ok.2 ⟨_, encodeBind_eq_ok.2 ⟨a, ha, rfl⟩, rfl⟩)⟩

/-- In a session every register an operation reads is written, so none faults (R22). -/
theorem exec_inSession_ne_fault {s : State} (ha : AddressCoherent s) (hs : InSession s) (i : Instr)
    (e : Fault) : exec i s ≠ .fault e := by
  have ⟨⟨a, htxa⟩, _, halen, ⟨b, hcrcen⟩, ⟨r, f, hlsign, _, haflags⟩, _⟩ := hs
  by_cases hp : IsPure i
  · exact exec_pure_ne_fault hp s e
  cases i with
  | init | deinit | llCfg | llSetaddr => nofun
  | tick =>
    cases hrun : s.run with
    | false => simp [exec_tick_stopped hrun]
    | true => exact exec_ne_fault_of_next (exec_tick_completes ha hs hrun) e
  | llSend m => exact exec_ne_fault_of_next (exec_llSend_completes ha halen (by simp [hcrcen]) m) e
  | arm v => exact exec_ne_fault_of_next (exec_arm_completes hlsign haflags v) e
  | encBind => exact exec_ne_fault_of_next (exec_encBind_completes htxa) e
  | encData => exact exec_ne_fault_of_next ⟨_, exec_encData_tracked hlsign haflags⟩ e
  | crcUpd | crcSeed | crcMsg | scr | scale | csum => exact absurd trivial hp

/-- Settles O49: in a session no operation reads an unwritten register; before it the arm registers and
`TXA` are unwritten, and LL.SEND reads only what LL.CFG and LL.SETADDR wrote. -/
theorem operationsFaultOnlyBeforeInit : Obligations.OperationsFaultOnlyBeforeInit := by
  intro s hs
  refine ⟨exec_inSession_ne_fault hs.address, ?_⟩
  rintro ⟨hrun, htxa, -, -, -, -, hlsign, -⟩
  refine ⟨exec_tick_stopped hrun, exec_encBind_unwritten_txa htxa,
    exec_encData_unwritten_lsign hlsign, fun _ => exec_arm_unwritten_lsign hlsign, ?_,
    fun m halen hcrcen => exec_llSend_completes hs.address halen hcrcen m⟩
  rintro i hw (hp | rfl | rfl | ⟨flags, rfl⟩ | ⟨len, a, rfl⟩)
  · exact exec_pure_completes hp hw s
  all_goals exact ⟨_, rfl⟩

end Sys2Proof.Machine
end

section
/-! The state after INIT (R49, R236) and after power-on (R300). -/

namespace Sys2Proof.Machine

/-! ### INIT -/

theorem preambleByte_fullLen (c : Cfg) (a : Addr) :
    preambleByte c fullLen a = if a.a4.getLsbD 7 then c.preIfSet else c.preIfClear := rfl

theorem crcEnable_eq_decide (c : Cfg) (flags : Byte) :
    crcEnable c flags = decide (flags &&& c.crcEnMask ≠ 0) := by
  simp [crcEnable, bne, BEq.beq]

/-- Settles O36: `init_eq` is the table and the event order; what remains is the CRC switch, which a
well-formed `CFG` sets. -/
theorem initStartsASession : Obligations.InitStartsASession := by
  intro s c d p
  refine ⟨s.init, rfl, ?_⟩
  rw [init_eq]
  refine ⟨rfl, rfl, rfl, rfl, rfl, rfl, rfl, rfl, congrArg _ (crcEnable_eq_decide _ _), rfl,
    Memory.read_ofBytes _, Memory.wf_ofBytes _, rfl, rfl, ⟨_, rfl, rfl⟩, ?_,
    rfl, rfl, rfl, rfl, rfl, rfl, rfl, rfl⟩
  rintro ⟨-, -, -, -, -, hflags, -⟩
  exact congrArg _ ((crcEnable_eq_decide _ _).trans (decide_eq_true hflags))

/-! ### Power-on -/

/-- The open parameters of the hardware lie within table 4.2's constraints, whatever they are. -/
theorem hardware_wellFormed : Config.hardware.WellFormed := by
  have oneBit : ∀ b : Fin 8, (BitVec.twoPow 8 b.val : Byte) ∈
      ([0x01, 0x02, 0x04, 0x08, 0x10, 0x20, 0x40, 0x80] : List Byte) := by decide
  have bitSet : ∀ b : Fin 8, (BitVec.twoPow 8 b.val : Byte) ≠ 0 := by decide
  have chMax := Config.chMaxLess.isLt
  have initDelay := Config.initDelayLess.isLt
  refine ⟨rfl, rfl, rfl, oneBit _, ?mode, ?flags, ?chMax, ⟨rfl, rfl, rfl, rfl, rfl, rfl, rfl, rfl⟩, rfl,
    by decide, rfl, ?delay, Nat.le_add_left 1 _⟩
  case mode => simp [Config.hardware, BitVec.and_assoc]
  case flags =>
    have absorb : (Config.initBits ||| BitVec.twoPow 8 Config.crcEnBit.val) &&&
        BitVec.twoPow 8 Config.crcEnBit.val = BitVec.twoPow 8 Config.crcEnBit.val := by
      ext i hi; simp +contextual
    exact fun zero => bitSet _ (absorb.symm.trans zero)
  case chMax => simp only [Config.hardware]; omega
  case delay => simp only [Config.hardware]; omega

/-- Settles O48: after power-on everything is unwritten, which every part of the invariant allows. -/
theorem resetMeetsTheInvariant : Obligations.ResetMeetsTheInvariant :=
  ⟨hardware_wellFormed, .inl ⟨rfl, rfl, rfl⟩, .inl ⟨rfl, rfl⟩, .inl ⟨rfl, rfl⟩,
    .inl ⟨rfl, rfl, rfl, rfl, rfl, rfl, rfl, rfl⟩⟩

end Sys2Proof.Machine
end

section
/-! What a port read presents, and the nine channel reads of ENC.DATA (R40 to R43, R46, R215). -/

namespace Sys2Proof.Machine

/-! ### One read of a port -/

/-- Setting a channel's script to the one it has changes nothing. -/
theorem chan_set_own_script {e : Env} {i : Fin 10} {l : List Word} (h : e.chan[i] = l) :
    e.chan.set i l = e.chan := by
  simp [← h]

/-- Settles O56: each port by the three laws of a script (held, several values, none), and the free
identifiers by their lengths. -/
theorem portReadsPresentTheirScripts : Obligations.PortReadsPresentTheirScripts := by
  intro c e j v v' vs q q' qs x x' xs b b' bs
  refine ⟨fun h => ?_, fun h => ?_, fun h => ?_, fun h => ?_, fun h => ?_, fun h => ?_, fun h => ?_,
    fun h => ?_, fun h => ?_, fun h => ?_, fun h => ?_, fun h => ?_, fun h => ?_, fun h => ?_,
    fun h => ?_, ?_, ?_⟩
  · rw [Env.readChan, h, scriptNext_held, chan_set_own_script h, scriptValue_cons]
  · rw [Env.readChan, h, scriptNext_cons, scriptValue_cons]
  · simp [Env.readPower, h]
  · simp [Env.readPower, h]
  · simp [Env.readSerial, h]
  · simp [Env.readSerial, h]
  · simp [Env.readFixedId, h]
  · simp [Env.readFixedId, h]
  · simp [Env.readResetOk, h]
  · simp [Env.readResetOk, h]
  · rw [Env.readChan, h, scriptNext_nil, chan_set_own_script h, scriptValue_nil]
  · simp [Env.readPower, h]
  · simp [Env.readResetOk, h]
  · simp [Env.readSerial, h]
  · simp [Env.readFixedId, h]
  · exact ⟨_, rfl, by simp, fun n hn => by simp at hn; simp [hn]⟩
  · exact ⟨_, rfl, by simp, by simp, fun n hn => by simp at hn; simp [hn]⟩

/-! ### Reads one after another -/

/-- A script after `n` reads of its port: its last value is held (R41). -/
def scriptAfter {α : Type} (n : Nat) (l : List α) : List α := l.drop (min n (l.length - 1))

theorem scriptAfter_zero {α : Type} (l : List α) : scriptAfter 0 l = l := by simp [scriptAfter]

theorem scriptAfter_scriptNext {α : Type} (n : Nat) (l : List α) :
    scriptAfter n (scriptNext l) = scriptAfter (n + 1) l := by
  match l with
  | [] => simp [scriptAfter]
  | [v] => simp [scriptAfter]
  | v :: w :: vs => simp [scriptAfter, Nat.add_min_add_right]

theorem scriptAfter_nil {α : Type} (n : Nat) : scriptAfter n ([] : List α) = [] := by
  simp [scriptAfter]

/-- The read after `n` others presents entry `n`, or the last one (R41). -/
theorem scriptValue_scriptAfter {α : Type} (free : α) (n : Nat) {l : List α} (h : l ≠ []) :
    some (scriptValue free (scriptAfter n l)) = l[min n (l.length - 1)]? := by
  have hpos := List.length_pos_iff.2 h
  rw [scriptAfter, ← List.head?_drop]
  have : l.drop (min n (l.length - 1)) ≠ [] := by simp; omega
  cases hl : l.drop (min n (l.length - 1)) with
  | nil => exact absurd hl this
  | cons v vs => rfl

/-- A read moves the script of its own channel alone (R41). -/
theorem readChan_chan (a i : Fin 10) (e : Env) :
    (e.readChan a).2.chan[i] = if a = i then scriptNext e.chan[i] else e.chan[i] := by
  by_cases h : a = i
  · subst h; simp [Env.readChan]
  · have : a.val ≠ i.val := fun hv => h (Fin.ext hv)
    simp [Env.readChan, h, this]

/-- Reads of the CHAN port one after another at the listed indices. `readChannels` is this at the nine
roles' indices, by `rfl`. -/
def Env.readRoles : List (Fin 10) → Env → List Word × Env
  | [], e => ([], e)
  | i :: is, e =>
    ((e.readChan i).1 :: ((e.readChan i).2.readRoles is).1, ((e.readChan i).2.readRoles is).2)

theorem readRoles_chan (is : List (Fin 10)) (i : Fin 10) (e : Env) :
    (e.readRoles is).2.chan[i] = scriptAfter (is.count i) e.chan[i] := by
  induction is generalizing e with
  | nil => exact (scriptAfter_zero _).symm
  | cons a is ih =>
    rw [Env.readRoles, ih, readChan_chan, List.count_cons]
    by_cases h : a = i
    · simp [h, scriptAfter_scriptNext]
    · simp [h]

theorem readRoles_env (is : List (Fin 10)) (e : Env) :
    (e.readRoles is).2 =
      { e with chan := (e.readRoles is).2.chan, reads := e.reads + is.length } := by
  induction is generalizing e with
  | nil => rfl
  | cons a is ih =>
    rw [Env.readRoles, ih]
    simp [Env.readChan]; omega

/-- Read `k` finds the ports as the first `k` reads left them. -/
theorem readRoles_getElem? {is : List (Fin 10)} {k : Nat} {i : Fin 10} (h : is[k]? = some i)
    (e : Env) :
    (e.readRoles is).1[k]? = some ((e.readRoles (is.take k)).2.readChan i).1 := by
  induction is generalizing e k with
  | nil => cases h
  | cons a is ih =>
    cases k with
    | zero =>
      obtain rfl : a = i := by simpa using h
      rfl
    | succ k =>
      simpa [Env.readRoles] using ih (by simpa using h) _

/-- Read `k` presents what its channel's script holds after the earlier reads of that channel. -/
theorem readRoles_presents {is : List (Fin 10)} {k : Nat} {i : Fin 10} (h : is[k]? = some i)
    (e : Env) :
    (e.readRoles is).1[k]? =
      some (scriptValue (Config.freeChan (e.reads + k))
        (scriptAfter ((is.take k).count i) e.chan[i])) := by
  have hk : k < is.length := (List.getElem?_eq_some_iff.1 h).1
  have hreads : (e.readRoles (is.take k)).2.reads = e.reads + k := by
    rw [readRoles_env, List.length_take_of_le hk.le]
  rw [readRoles_getElem? h, Env.readChan, readRoles_chan, hreads]

/-- Settles O55: ENC.DATA's reads are `readRoles` at the roles' indices, and the laws of a sequence of
reads, by induction over the list of roles, give each clause. -/
theorem eachRoleReadsItsOwnChannel : Obligations.EachRoleReadsItsOwnChannel := by
  intro c e roles ch got
  have hgot : got = (e.readRoles roles).1 := rfl
  have henv : (e.readChannels c).2 = (e.readRoles roles).2 := rfl
  rw [hgot, henv]
  refine ⟨fun k i hk => ⟨fun h => ?_, fun h => ?_⟩, fun i => readRoles_chan roles i e,
    readRoles_env roles e⟩
  · rw [readRoles_presents hk, h, scriptAfter_nil]; rfl
  · rw [readRoles_presents hk, scriptValue_scriptAfter _ _ h]

end Sys2Proof.Machine
end

section
/-! The step (R71, R90), and what operations add to the outputs: their growth, the pure operations and
repeated ones (R73, R75, R96, R174). -/

namespace Sys2Proof.Machine

/-! ### The step -/

/-- Settles O2: the four answers of the decoder are the four branches of the step. -/
theorem stepRunsTheDecodedCommand : Obligations.StepRunsTheDecodedCommand := by
  intro s
  refine ⟨fun i rest h => ?_, fun h => ?_, fun h => ?_, fun h => ?_⟩
  · rw [step, h]
  · rw [step, h, decode]
  · rw [step, h]
  · rw [step, h]

/-! ### Growth of the outputs -/

/-- No operation takes an event or a response byte back (R75, R96). -/
theorem exec_outputs_grow {i : Instr} {s t : State} (h : exec i s = .next t) :
    s.events <+: t.events ∧ s.resp <+: t.resp := by
  by_cases hp : IsPure i
  · obtain ⟨r, rfl⟩ := exec_pure_next hp h
    simp
  cases i with
  | init =>
    obtain rfl : s.init = t := Host.Outcome.next.inj h
    simp [init_eq]
  | tick =>
    obtain ⟨f, common, -⟩ := exec_tick_next h
    obtain ⟨ev, hev, -⟩ := common.events
    simp [hev, common.resp]
  | deinit =>
    obtain rfl : s.deinit = t := Host.Outcome.next.inj h
    simp [deinit_eq]
  | llCfg flags =>
    obtain rfl : s.configure flags = t := Host.Outcome.next.inj h
    simp
  | llSetaddr len addr =>
    obtain rfl : s.setAddress len addr = t := Host.Outcome.next.inj h
    simp
  | llSend m =>
    obtain ⟨f, -, rfl⟩ := exec_llSend_next h
    simp
  | arm v =>
    obtain ⟨l, -, rfl | ⟨x, -, rfl⟩⟩ := exec_arm_next h <;> simp
  | encBind =>
    obtain ⟨a, -, rfl⟩ := exec_encBind_next h
    simp
  | encData =>
    obtain ⟨l, y, u, -, -, rfl, rfl | ⟨x, -, rfl⟩⟩ := exec_encData_next h <;> simp
  | crcUpd | crcSeed | crcMsg | scr | scale | csum => exact absurd trivial hp

/-- Settles O51: a step is idle or runs one operation, and no operation takes an output back. -/
theorem outputsOnlyGrow : Obligations.OutputsOnlyGrow := by
  refine ⟨fun _ _ _ => exec_outputs_grow, fun s t h => ?_⟩
  rcases step_next h with rfl | ⟨i, rest, hexec⟩
  · simp
  · exact exec_outputs_grow (s := { s with cmdIn := rest }) hexec

/-! ### The pure operations -/

/-- Settles O53: each pure operation responds what it computes from its operands and `CFG`; CRC.UPD does
so because its shift count is well-formed. -/
theorem pureOperationsOnlyRespond : Obligations.PureOperationsOnlyRespond := by
  intro i c hp hw
  cases i with
  | crcUpd crc a n => exact ⟨_, fun s _ => if_pos hw⟩
  | crcSeed len addr => exact ⟨_, fun s _ => rfl⟩
  | crcMsg seed m => exact ⟨_, fun s _ => rfl⟩
  | scr m => exact ⟨scramble c m, by rintro s rfl; rfl⟩
  | scale v dmin dmax => exact ⟨[scaleByte c v dmin dmax], by rintro s rfl; rfl⟩
  | csum m => exact ⟨_, fun s _ => rfl⟩
  | _ => exact hp.elim

/-! ### Repeated operations -/

theorem exec_encBind_of_txa {s : State} {a : Addr} (ha : s.txa = .written a) :
    exec .encBind s = .next ((s.storePacket (bindPacket a)).respond (bindPacket a)) :=
  Eff.outcome_eq_next.2 (respondPacket_eq_ok.2 ⟨_, encodeBind_eq_ok.2 ⟨a, ha, rfl⟩, rfl⟩)

/-- A second LL.SEND builds a different frame: its control byte carries the next packet-id (R103, R174). -/
theorem buildFrame_submit_ne {m : List Byte} {s : State} {f f' : List Byte}
    (h : buildFrame m s = .ok f) (h' : buildFrame m (s.submit f) = .ok f') : f' ≠ f := by
  rintro rfl
  obtain ⟨alen, -, -, -, -, halen, -⟩ := buildFrame_eq_ok.1 h
  have control := (buildFrame_controlByte h halen).symm.trans (buildFrame_controlByte h' halen)
  have hpid : s.pid = s.pid + 1 := by
    simpa using congrArg (·.extractLsb' 0 2) (Option.some.inj control)
  exact absurd hpid (by bv_omega)

/-- Settles O54: a second ENC.BIND, LL.CFG or LL.SETADDR writes the registers with the values they hold,
and a second LL.SEND has the next packet-id in its frame. -/
theorem repeatedOperations : Obligations.RepeatedOperations := by
  refine ⟨fun i s t hi h => ?_, fun m s t u h h' => ?_⟩
  · rcases hi with rfl | ⟨flags, rfl⟩ | ⟨len, addr, rfl⟩
    · obtain ⟨a, ha, rfl⟩ := exec_encBind_next h
      refine ⟨_, [], bindPacket a, exec_encBind_of_txa ha, by simp, by simp, ?_⟩
      apply State.ext_fields <;> simp
    · obtain rfl : s.configure flags = t := Host.Outcome.next.inj h
      refine ⟨_, [.xwCfg (modeBits s.cfg flags)], [], rfl, by simp, by simp, ?_⟩
      apply State.ext_fields <;> simp
    · obtain rfl : s.setAddress len addr = t := Host.Outcome.next.inj h
      refine ⟨_, [.xwTxaddr (preambleField s.cfg len addr)], [], rfl, by simp, by simp, ?_⟩
      apply State.ext_fields <;> simp
  · obtain ⟨f, hbuild, rfl⟩ := exec_llSend_next h
    obtain ⟨f', hbuild', rfl⟩ := exec_llSend_next h'
    exact fun hframe => buildFrame_submit_ne hbuild hbuild' (Memory.ofBytes_inj hframe)

end Sys2Proof.Machine
end

section
/-! The decoder and the encoder (R90 to R95, R120, R121). Each format's reader accepts exactly the bytes the
encoder writes in that format, so over the opcode table the two invert each other. -/

namespace Sys2Proof.Machine

/-! ### Operand assembly and its inverse (R68, R94) -/

theorem hiByte_halfOfBytes (hi lo : Byte) : hiByte (halfOfBytes hi lo) = hi :=
  BitVec.extractLsb'_append_eq_left

theorem loByte_halfOfBytes (hi lo : Byte) : loByte (halfOfBytes hi lo) = lo :=
  BitVec.extractLsb'_append_eq_right

theorem halfOfBytes_hiByte_loByte (h : Half) : halfOfBytes (hiByte h) (loByte h) = h :=
  (BitVec.extractLsb'_append_extractLsb'_eq_extractLsb' rfl).trans BitVec.extractLsb'_eq_self

theorem wordBytes_wordOfBytes (b1 b2 b3 b4 : Byte) :
    wordBytes (wordOfBytes b1 b2 b3 b4) = [b1, b2, b3, b4] := by
  have h3 : wordByte (wordOfBytes b1 b2 b3 b4) 3 = b1 :=
    (BitVec.extractLsb'_append_eq_of_le (by decide)).trans
      ((BitVec.extractLsb'_append_eq_of_le (by decide)).trans BitVec.extractLsb'_append_eq_left)
  have h2 : wordByte (wordOfBytes b1 b2 b3 b4) 2 = b2 :=
    (BitVec.extractLsb'_append_eq_of_le (by decide)).trans
      ((BitVec.extractLsb'_append_eq_of_le (by decide)).trans BitVec.extractLsb'_append_eq_right)
  have h1 : wordByte (wordOfBytes b1 b2 b3 b4) 1 = b3 :=
    (BitVec.extractLsb'_append_eq_of_le (by decide)).trans BitVec.extractLsb'_append_eq_right
  have h0 : wordByte (wordOfBytes b1 b2 b3 b4) 0 = b4 := BitVec.extractLsb'_append_eq_right
  rw [wordBytes, h3, h2, h1, h0]

theorem wordOfBytes_wordByte (v : Word) :
    wordOfBytes (wordByte v 3) (wordByte v 2) (wordByte v 1) (wordByte v 0) = v := by
  have h2 : wordByte v 3 ++ wordByte v 2 = v.extractLsb' 16 16 :=
    BitVec.extractLsb'_append_extractLsb'_eq_extractLsb' rfl
  have h1 : v.extractLsb' 16 16 ++ wordByte v 1 = v.extractLsb' 8 24 :=
    BitVec.extractLsb'_append_extractLsb'_eq_extractLsb' rfl
  have h0 : v.extractLsb' 8 24 ++ wordByte v 0 = v.extractLsb' 0 32 :=
    BitVec.extractLsb'_append_extractLsb'_eq_extractLsb' rfl
  rw [wordOfBytes, h2, h1]
  exact h0.trans BitVec.extractLsb'_eq_self

/-! ### What each format's reader answers (R93, R95, R121)

Either it refuses the operands as malformed, or the stream begins with the bytes the encoder writes for the
operands it reads. -/

theorem readC_cases (f : Byte → Instr) (bs : List Byte) :
    readC f bs = .error .malformedOperands ∨
      ∃ flags rest, readC f bs = .ok (f flags, rest) ∧ bs = flags :: rest := by
  unfold readC
  split
  · exact .inr ⟨_, _, rfl, rfl⟩
  · exact .inl rfl

theorem readU_cases (f : Half → Byte → Byte → Instr) (bs : List Byte) :
    readU f bs = .error .malformedOperands ∨
      ∃ crc a n rest, readU f bs = .ok (f crc a n, rest) ∧ shiftCountOk n = true ∧
        bs = hiByte crc :: loByte crc :: a :: n :: rest := by
  unfold readU
  split
  · next hi lo a n rest =>
    by_cases hn : shiftCountOk n = true
    · exact .inr ⟨_, a, n, rest, if_pos hn, hn, by rw [hiByte_halfOfBytes, loByte_halfOfBytes]⟩
    · exact .inl (if_neg hn)
  · exact .inl rfl

theorem readU_encoded (f : Half → Byte → Byte → Instr) (crc : Half) (a : Byte) {n : Byte}
    (hn : shiftCountOk n = true) (rest : List Byte) :
    readU f (hiByte crc :: loByte crc :: a :: n :: rest) = .ok (f crc a n, rest) := by
  rw [readU, if_pos hn, halfOfBytes_hiByte_loByte]

theorem readA_cases (f : Byte → Addr → Instr) (bs : List Byte) :
    readA f bs = .error .malformedOperands ∨
      ∃ len addr rest, readA f bs = .ok (f len addr, rest) ∧ bs = len :: addr.toList ++ rest := by
  unfold readA
  split
  · exact .inr ⟨_, _, _, rfl, rfl⟩
  · exact .inl rfl

theorem readR_cases (f : Word → Instr) (bs : List Byte) :
    readR f bs = .error .malformedOperands ∨
      ∃ v rest, readR f bs = .ok (f v, rest) ∧ bs = wordBytes v ++ rest := by
  unfold readR
  split
  · exact .inr ⟨_, _, rfl, by rw [wordBytes_wordOfBytes]; rfl⟩
  · exact .inl rfl

theorem readR_encoded (f : Word → Instr) (v : Word) (rest : List Byte) :
    readR f (wordBytes v ++ rest) = .ok (f v, rest) := by
  simp only [wordBytes, List.cons_append, List.nil_append, readR, wordOfBytes_wordByte]

theorem readS_cases (f : Word → Byte → Byte → Instr) (bs : List Byte) :
    readS f bs = .error .malformedOperands ∨
      ∃ v dmin dmax rest, readS f bs = .ok (f v dmin dmax, rest) ∧
        bs = wordBytes v ++ dmin :: dmax :: rest := by
  unfold readS
  split
  · exact .inr ⟨_, _, _, _, rfl, by rw [wordBytes_wordOfBytes]; rfl⟩
  · exact .inl rfl

theorem readS_encoded (f : Word → Byte → Byte → Instr) (v : Word) (dmin dmax : Byte)
    (rest : List Byte) :
    readS f (wordBytes v ++ dmin :: dmax :: rest) = .ok (f v dmin dmax, rest) := by
  simp only [wordBytes, List.cons_append, List.nil_append, readS, wordOfBytes_wordByte]

/-- A count byte counts a list that fits it, and every such list has its count byte (R95). -/
theorem length_eq_toNat_iff {m : List Byte} {k : Byte} :
    m.length = k.toNat ↔ countFits m = true ∧ k = countByte m := by
  constructor
  · intro h
    have hk := k.isLt
    refine ⟨?_, ?_⟩
    · simp only [countFits, decide_eq_true_eq]; omega
    · rw [countByte, h, BitVec.ofNat_toNat, BitVec.setWidth_eq]
  · rintro ⟨hm, rfl⟩
    exact (Laws.CommandLength.countByte_toNat hm).symm

theorem takeOperand_cases (k : Byte) (f : List Byte → Instr) (bs : List Byte) :
    takeOperand k.toNat bs f = .error .malformedOperands ∨
      ∃ m rest, takeOperand k.toNat bs f = .ok (f m, rest) ∧ countFits m = true ∧
        k :: bs = countByte m :: m ++ rest := by
  unfold takeOperand
  by_cases hk : k.toNat ≤ bs.length
  · obtain ⟨hm, hcount⟩ := length_eq_toNat_iff.1 (List.length_take_of_le hk)
    refine .inr ⟨_, _, if_pos hk, hm, ?_⟩
    rw [← hcount, List.cons_append, List.take_append_drop]
  · exact .inl (if_neg hk)

theorem takeOperand_encoded (f : List Byte → Instr) {m : List Byte} (hm : countFits m = true)
    (rest : List Byte) : takeOperand (countByte m).toNat (m ++ rest) f = .ok (f m, rest) := by
  rw [Laws.CommandLength.countByte_toNat hm]
  simp [takeOperand]

theorem readM_cases (f : List Byte → Instr) (bs : List Byte) :
    readM f bs = .error .malformedOperands ∨
      ∃ m rest, readM f bs = .ok (f m, rest) ∧ countFits m = true ∧
        bs = countByte m :: m ++ rest := by
  unfold readM
  split
  · exact takeOperand_cases _ f _
  · exact .inl rfl

theorem readG_cases (f : Half → List Byte → Instr) (bs : List Byte) :
    readG f bs = .error .malformedOperands ∨
      ∃ seed m rest, readG f bs = .ok (f seed m, rest) ∧ countFits m = true ∧
        bs = hiByte seed :: loByte seed :: countByte m :: m ++ rest := by
  unfold readG
  split
  · next hi lo k bs =>
    refine (takeOperand_cases k (f (halfOfBytes hi lo)) bs).imp_right ?_
    rintro ⟨m, rest, h, hm, hbs⟩
    exact ⟨_, m, rest, h, hm, by rw [hiByte_halfOfBytes, loByte_halfOfBytes, hbs]; rfl⟩
  · exact .inl rfl

theorem readG_encoded (f : Half → List Byte → Instr) (seed : Half) {m : List Byte}
    (hm : countFits m = true) (rest : List Byte) :
    readG f (hiByte seed :: loByte seed :: countByte m :: m ++ rest) = .ok (f seed m, rest) := by
  rw [List.cons_append, List.cons_append, List.cons_append, readG, halfOfBytes_hiByte_loByte,
    takeOperand_encoded (f seed) hm]

/-! ### The opcode table (R92, R120) -/

/-- Settles O4, by cases on the instruction: its format's reader reads back what the encoder writes. -/
theorem decodeInvertsEncode : Obligations.DecodeInvertsEncode := by
  intro i rest hw
  cases i with
  | crcUpd crc a n => exact readU_encoded .crcUpd crc a hw rest
  | crcMsg seed m => exact readG_encoded .crcMsg seed hw rest
  | scr m => exact takeOperand_encoded .scr hw rest
  | llSend m => exact takeOperand_encoded .llSend hw rest
  | csum m => exact takeOperand_encoded .csum hw rest
  | scale v dmin dmax => exact readS_encoded .scale v dmin dmax rest
  | arm v => exact readR_encoded .arm v rest
  | init | tick | deinit | llCfg | crcSeed | llSetaddr | encBind | encData => rfl

theorem mem_tableOpcodes {op : Byte} :
    op ∈ tableOpcodes ↔ op.toNat ∈ tableOpcodes.map BitVec.toNat :=
  (List.mem_map_of_injective fun _ _ => BitVec.eq_of_toNat_eq).symm

theorem decode_reserved {op : Byte} (bs : List Byte) (h : op ∉ tableOpcodes) :
    decode (op :: bs) = .error .reservedOpcode := by
  rw [mem_tableOpcodes] at h
  rw [decode]
  unfold decodeOperands
  split
  case h_16 => rfl
  all_goals
    next heq => exact absurd (by rw [heq]; decide) h

/-- Everything the decoder can answer on an opcode of the table: the operands are malformed, or the stream
begins with the encoding of the well-formed instruction it reads. -/
theorem decode_cases {op : Byte} (bs : List Byte) (hop : op ∈ tableOpcodes) :
    decode (op :: bs) = .error .malformedOperands ∨
      ∃ i rest, decode (op :: bs) = .ok (i, rest) ∧ i.wellFormed = true ∧
        op :: bs = encode i ++ rest := by
  simp only [tableOpcodes, List.mem_cons, List.not_mem_nil, or_false] at hop
  rcases hop with rfl | rfl | rfl | rfl | rfl | rfl | rfl | rfl | rfl | rfl | rfl | rfl | rfl | rfl |
    rfl
  case inl | inr.inl | inr.inr.inl => exact .inr ⟨_, bs, rfl, rfl, rfl⟩
  · refine (readU_cases .crcUpd bs).imp_right ?_
    rintro ⟨crc, a, n, rest, h, hn, rfl⟩
    exact ⟨_, rest, h, hn, rfl⟩
  · refine (readA_cases .crcSeed bs).imp_right ?_
    rintro ⟨len, addr, rest, h, rfl⟩
    exact ⟨_, rest, h, rfl, rfl⟩
  · refine (readG_cases .crcMsg bs).imp_right ?_
    rintro ⟨seed, m, rest, h, hm, rfl⟩
    exact ⟨_, rest, h, hm, rfl⟩
  · refine (readM_cases .scr bs).imp_right ?_
    rintro ⟨m, rest, h, hm, rfl⟩
    exact ⟨_, rest, h, hm, rfl⟩
  · refine (readC_cases .llCfg bs).imp_right ?_
    rintro ⟨flags, rest, h, rfl⟩
    exact ⟨_, rest, h, rfl, rfl⟩
  · refine (readA_cases .llSetaddr bs).imp_right ?_
    rintro ⟨len, addr, rest, h, rfl⟩
    exact ⟨_, rest, h, rfl, rfl⟩
  · refine (readM_cases .llSend bs).imp_right ?_
    rintro ⟨m, rest, h, hm, rfl⟩
    exact ⟨_, rest, h, hm, rfl⟩
  · refine (readS_cases .scale bs).imp_right ?_
    rintro ⟨v, dmin, dmax, rest, h, rfl⟩
    exact ⟨_, rest, h, rfl, rfl⟩
  · refine (readR_cases .arm bs).imp_right ?_
    rintro ⟨v, rest, h, rfl⟩
    exact ⟨_, rest, h, rfl, rfl⟩
  · refine (readM_cases .csum bs).imp_right ?_
    rintro ⟨m, rest, h, hm, rfl⟩
    exact ⟨_, rest, h, hm, rfl⟩
  all_goals exact .inr ⟨_, bs, rfl, rfl, rfl⟩

/-- Settles O5: a reserved opcode is not accepted, and what is accepted on another is what `decode_cases`
says. -/
theorem encodeInvertsDecode : Obligations.EncodeInvertsDecode := by
  intro bs i rest h
  cases bs with
  | nil => cases h
  | cons op bs =>
    by_cases hop : op ∈ tableOpcodes
    · rcases decode_cases bs hop with herr | ⟨j, rest', hok, hw, hbs⟩
      · cases herr.symm.trans h
      · cases hok.symm.trans h
        exact ⟨hw, hbs.symm⟩
    · cases (decode_reserved bs hop).symm.trans h

/-! ### The step on reserved, malformed and cut-off commands (R120, R121) -/

/-- Settles O6: the step refuses what the decoder refuses; the count is over the 256 bytes. -/
theorem reservedOpcodesAreRefused : Obligations.ReservedOpcodesAreRefused := by
  refine ⟨fun s op rest hop hs => ?_, by decide +kernel⟩
  obtain ⟨-, -, hreserved, -⟩ := stepRunsTheDecodedCommand s
  exact hreserved (by rw [hs, decode_reserved rest hop])

/-- No command's bytes begin with those of another command and go on. -/
theorem eq_nil_of_encode_eq_append {i j : Instr} {cs : List Byte} (hi : i.wellFormed = true)
    (hj : j.wellFormed = true) (h : encode i = encode j ++ cs) : cs = [] := by
  have hdi := decodeInvertsEncode i [] hi
  rw [List.append_nil, h, decodeInvertsEncode j cs hj] at hdi
  exact congrArg Prod.snd (Except.ok.inj hdi)

theorem encode_eq_cons (i : Instr) : ∃ op bs, encode i = op :: bs ∧ op ∈ tableOpcodes := by
  cases i <;> exact ⟨_, _, rfl, by decide⟩

/-- A command cut off after its opcode byte is malformed: read as a command it would be the beginning of
another one. -/
theorem decode_take_encode {i : Instr} {k : Nat} (hw : i.wellFormed = true) (hpos : 0 < k)
    (hk : k < (encode i).length) : decode ((encode i).take k) = .error .malformedOperands := by
  obtain ⟨op, bs, henc, hop⟩ := encode_eq_cons i
  have htake : (encode i).take k = op :: bs.take (k - 1) := by
    rw [henc, List.take_cons hpos]
  rw [htake]
  refine (decode_cases (bs.take (k - 1)) hop).resolve_right ?_
  rintro ⟨j, rest, -, hj, heq⟩
  have hij : encode i = encode j ++ (rest ++ (encode i).drop k) := by
    rw [← List.append_assoc, ← heq, ← htake, List.take_append_drop]
  have hdrop := (List.append_eq_nil_iff.1 (eq_nil_of_encode_eq_append hw hj hij)).2
  exact absurd (List.drop_eq_nil_iff.1 hdrop) (by omega)

/-! ### The two repairs (R151, R163) -/

/-- A clamped length is left as it is (R163). -/
@[simp] theorem clampLen_clampLen (len : Byte) :
    clampLen (BitVec.ofNat 8 (clampLen len)) = clampLen len := by
  rcases clampLen_cases len with h | h <;> rw [h] <;> rfl

theorem usedAddr_clampLen (len : Byte) (a : Addr) :
    usedAddr (BitVec.ofNat 8 (clampLen len)) a = usedAddr len a := by
  rw [usedAddr, clampLen_clampLen, usedAddr]

theorem crcSeedOf_clampLen (len : Byte) (a : Addr) :
    crcSeedOf (BitVec.ofNat 8 (clampLen len)) a = crcSeedOf len a := by
  rw [crcSeedOf, usedAddr_clampLen, crcSeedOf]

theorem setAddress_clampLen (s : State) (len : Byte) (a : Addr) :
    s.setAddress (BitVec.ofNat 8 (clampLen len)) a = s.setAddress len a := by
  simp only [State.setAddress, preambleByte, usedAddr_clampLen, crcSeedOf_clampLen,
    clampLen_clampLen]

theorem scramble_truncated (c : Cfg) (m : List Byte) : scramble c (truncated m) = scramble c m := by
  rw [scramble, truncated_truncated, scramble]

theorem buildFrame_truncated (m : List Byte) (s : State) :
    buildFrame (truncated m) s = buildFrame m s := by
  have hcrc (seed : Option Half) :
      crcField s.cfg s.pid (truncated m) seed = crcField s.cfg s.pid m seed := by
    cases seed with
    | none => rfl
    | some sd => simp only [crcField, frameCrc, crcMessageBytes, truncated_truncated, scramble_truncated]
  simp only [buildFrame, frameBytes, truncated_truncated, scramble_truncated, hcrc]

theorem send_truncated (m : List Byte) (s : State) : send (truncated m) s = send m s := by
  rw [send, buildFrame_truncated, send]

/-- Settles O7: the reader of CRC.UPD checks the count, a cut-off command is malformed, and the operations
see a length only clamped and a payload only truncated. -/
theorem meaninglessOperandsAreRefused : Obligations.MeaninglessOperandsAreRefused := by
  refine ⟨fun s hi lo a n rest hn hs => ?_, fun s i k hw hpos hk hs => ?_, fun s len a => ⟨?_, ?_⟩,
    fun s m => ⟨?_, ?_⟩⟩
  · obtain ⟨-, -, -, hmalformed⟩ := stepRunsTheDecodedCommand s
    have hcount : ¬ shiftCountOk n = true := by
      simp only [shiftCountOk, Bool.and_eq_true, decide_eq_true_eq]
      rcases hn with rfl | hn
      · decide
      · omega
    exact hmalformed (by rw [hs]; exact if_neg hcount)
  · obtain ⟨-, -, -, hmalformed⟩ := stepRunsTheDecodedCommand s
    exact hmalformed (by rw [hs, decode_take_encode hw hpos hk])
  · exact congrArg Host.Outcome.next (setAddress_clampLen s len a).symm
  · exact congrArg (fun h => Host.Outcome.next (s.respond (halfBytes h))) (crcSeedOf_clampLen len a).symm
  · exact congrArg (fun bs => Host.Outcome.next (s.respond bs)) (scramble_truncated s.cfg m).symm
  · exact congrArg Eff.outcome (send_truncated m s).symm

/-! ### Words as the opcode table numbers them (R90, R95) -/

theorem commandLength_encode (i : Instr) : Laws.CommandLength.Statement i := by
  cases i with
  | init => exact Laws.CommandLength.init
  | tick => exact Laws.CommandLength.tick
  | deinit => exact Laws.CommandLength.deinit
  | crcUpd crc a n => exact Laws.CommandLength.crcUpd crc a n
  | crcSeed len addr => exact Laws.CommandLength.crcSeed len addr
  | crcMsg seed m => exact Laws.CommandLength.crcMsg seed m
  | scr m => exact Laws.CommandLength.scr m
  | llCfg flags => exact Laws.CommandLength.llCfg flags
  | llSetaddr len addr => exact Laws.CommandLength.llSetaddr len addr
  | llSend m => exact Laws.CommandLength.llSend m
  | scale v dmin dmax => exact Laws.CommandLength.scale v dmin dmax
  | arm v => exact Laws.CommandLength.arm v
  | csum m => exact Laws.CommandLength.csum m
  | encBind => exact Laws.CommandLength.encBind
  | encData => exact Laws.CommandLength.encData

/-- A stream cut to the length its first bytes say is no longer than the command in it (R95). -/
theorem take_commandLength {bs rest : List Byte} {i : Instr} (hw : i.wellFormed = true)
    (h : bs.take (commandLength bs) = encode i ++ rest) : bs.take (commandLength bs) = encode i := by
  have hbs : bs = encode i ++ (rest ++ bs.drop (commandLength bs)) := by
    rw [← List.append_assoc, ← h, List.take_append_drop]
  have hlen : commandLength bs = (encode i).length := by
    rw [hbs, commandLength_encode i hw]
  rw [hlen, hbs, List.take_left]

theorem tableCommand_eq_encode {nbits w : Nat} {i : Instr} (h : decodeTableWord nbits w = some i) :
    i.wellFormed = true ∧ tableCommand nbits w = encode i := by
  unfold decodeTableWord at h
  split at h
  · next j rest hok =>
    obtain rfl := Option.some.inj h
    obtain ⟨hw, henc⟩ := encodeInvertsDecode _ _ _ hok
    exact ⟨hw, take_commandLength hw henc.symm⟩
  · cases h

/-- Settles O8: the word's bytes are exactly the instruction's encoding, so the decoder takes them and leaves
the stream that stood before. -/
theorem tableWordIsTheNextCommand : Obligations.TableWordIsTheNextCommand := by
  intro s nbits w i h
  obtain ⟨hw, henc⟩ := tableCommand_eq_encode h
  obtain ⟨hrun, -⟩ := stepRunsTheDecodedCommand (s.withFetchWord nbits w)
  refine hrun i s.cmdIn ?_
  rw [State.withFetchWord, henc]
  exact decodeInvertsEncode i s.cmdIn hw

/-- Settles O3: the ten command streams, each read by its format. -/
theorem writtenCommandsDecode : Obligations.WrittenCommandsDecode :=
  ⟨rfl, rfl, rfl, rfl, rfl, rfl, rfl, rfl, rfl, rfl⟩

end Sys2Proof.Machine
end

section
/-! The frame and the bind packet (R100 to R110, R170 to R175, R214): the tail of a frame by R105's byte
formulas, the frame a configured framer sends, and the packet ENC.BIND builds. -/

namespace Sys2Proof.Machine

/-! ### The tail (R105) -/

/-- A bit carried into a tail byte stands in its bit 7. -/
def carryByte (b : Bool) : Byte := if b then 0x80 else 0x00

/-- One byte of the tail: the carried bit over the upper seven bits of the content byte. -/
theorem byteOfBits_carry (b : Bool) (x : Byte) :
    byteOfBits b (x.getLsbD 7) (x.getLsbD 6) (x.getLsbD 5) (x.getLsbD 4) (x.getLsbD 3) (x.getLsbD 2)
      (x.getLsbD 1) = carryByte b ||| (x >>> 1) := by
  revert b x; decide +kernel

theorem shiftLeft_seven (x : Byte) : x <<< 7 = carryByte (x.getLsbD 0) := by
  revert x; decide +kernel

/-- Each content byte gives its upper seven bits to one tail byte and carries bit 0 into the next, the last
over the padding. -/
theorem packBits_carry (b : Bool) (content : List Byte) :
    packBits (b :: content.flatMap byteBits ++ paddingBits) = tailFormula (carryByte b) content := by
  induction content generalizing b with
  | nil => cases b <;> rfl
  | cons x xs ih =>
    have h := ih (x.getLsbD 0)
    simp only [List.flatMap_cons, byteBits, List.cons_append, List.nil_append] at h ⊢
    rw [packBits, h, byteOfBits_carry, tailFormula, shiftLeft_seven]

/-- The tail cut from the bit sequence is that of the byte formulas (R105). -/
theorem tailBytes_eq_formula (noack : Bool) (content : List Byte) :
    tailBytes noack content = tailByFormula noack content :=
  packBits_carry noack content

/-- Settles O20: the bits after each carried bit are those the byte formulas shift (`packBits_carry`). -/
theorem tailBitsEqualTheByteFormulas : Obligations.TailBitsEqualTheByteFormulas :=
  fun noack content => ⟨tailBytes_eq_formula noack content, tailBytes_length noack content⟩

/-! ### The frame -/

theorem controlByte_eq_ofNat {n : Nat} (hn : n ≤ 15) (pid : BitVec 2) :
    controlByte n pid = BitVec.ofNat 8 (4 * n + pid.toNat) := by
  have hpid := pid.isLt
  have hmask : n &&& 0x3F = n := by rw [Nat.and_two_pow_sub_one_eq_mod n 6]; omega
  have hor : n <<< 2 ||| pid.toNat = 4 * n + pid.toNat := by
    rw [← Nat.shiftLeft_add_eq_or_of_lt hpid]; omega
  apply BitVec.eq_of_toNat_eq
  simp only [controlByte, hmask, BitVec.toNat_or, BitVec.toNat_shiftLeft, BitVec.toNat_ofNat,
    BitVec.truncate_eq_setWidth, BitVec.toNat_setWidth, ← hor]
  simp (disch := omega) only [Nat.mod_eq_of_lt]

/-- The CRC of a frame, written out (R173). -/
theorem frameCrc_eq_formula (c : Cfg) (pid : BitVec 2) (m : List Byte) (seed : Half) :
    frameCrc c pid m seed = crcMessage seed
      (BitVec.ofNat 8 (4 * min m.length 15 + pid.toNat) :: tailByFormula c.noackBit (scramble c m)) := by
  rw [frameCrc, crcMessageBytes, truncated_length, tailBytes_eq_formula,
    controlByte_eq_ofNat (Nat.min_le_right _ _)]

theorem readyFrame_length (s : State) (addr m : List Byte) (seed : Option Half) :
    (readyFrame s addr seed m).length =
      addr.length + min m.length 15 + 4 + if seed.isSome then 2 else 0 := by
  rw [readyFrame, frameBytes_length, List.length_reverse]

theorem readyFrame_eq_formula (s : State) (addr m : List Byte) (seed : Option Half) :
    readyFrame s addr seed m =
      addr.reverse ++
        [addr.headD 0, addr.headD 0, BitVec.ofNat 8 (4 * min m.length 15 + s.pid.toNat)] ++
        tailByFormula s.cfg.noackBit (scramble s.cfg m ++ crcField s.cfg s.pid m seed) := by
  rw [readyFrame, frameBytes, truncated_length, tailBytes_eq_formula,
    controlByte_eq_ofNat (Nat.min_le_right _ _), List.append_assoc addr.reverse]
  rfl

/-- Every register the frame builder reads is written in a configured framer (R170). -/
theorem FramerReady.buildFrame_eq {s : State} {addr : List Byte} {seed : Option Half}
    (h : FramerReady s addr seed) (m : List Byte) :
    buildFrame m s = .ok (readyFrame s addr seed m) := by
  obtain ⟨hlen, halen, hladdr, hseed⟩ := h
  have hnat : (BitVec.ofNat 3 addr.length).toNat = addr.length := by
    rcases hlen with h | h <;> rw [h] <;> rfl
  have hdown : readAddrDown s.laddr (BitVec.ofNat 3 addr.length).toNat = .ok addr.reverse := by
    rw [hnat, readAddrDown_eq_ok]
    refine ⟨List.length_reverse, fun i hi => ?_⟩
    rw [hladdr i hi, List.getElem?_reverse (by omega)]
    congr 1
    omega
  have hguard : s.laddr.read 0 = some (addr.headD 0) := by
    rw [hladdr 0 (by omega)]
    cases addr <;> simp at hlen ⊢
  obtain ⟨crcen, hcrcen, hread⟩ : ∃ crcen, s.crcen = .written crcen ∧ readSeed s crcen = .ok seed := by
    rcases hseed with ⟨rfl, hc⟩ | ⟨sd, rfl, hc, hs⟩
    · exact ⟨false, hc, rfl⟩
    · exact ⟨true, hc, by rw [readSeed_on, hs]; rfl⟩
  exact buildFrame_eq_ok.2 ⟨_, _, _, _, _, halen, hcrcen, hdown, hguard, hread, rfl⟩

theorem FramerReady.exec_llSend {s : State} {addr : List Byte} {seed : Option Half}
    (h : FramerReady s addr seed) (m : List Byte) :
    exec (.llSend m) s = .next (s.submit (readyFrame s addr seed m)) :=
  Eff.outcome_eq_next.2 (send_eq_ok.2 ⟨_, h.buildFrame_eq m, rfl⟩)

/-- Settles O19: a configured framer submits `readyFrame`, whose parts are those of the byte formulas. -/
theorem llSendBuildsAndSubmitsTheFrame : Obligations.LlSendBuildsAndSubmitsTheFrame := by
  intro m addr seed s hready n sc ctl crc f
  have hctl : ctl = controlByte n s.pid := (controlByte_eq_ofNat (Nat.min_le_right _ _) _).symm
  have hcrc : crc = crcField s.cfg s.pid m seed := by
    cases seed with
    | none => rfl
    | some sd => exact congrArg halfBytes (frameCrc_eq_formula s.cfg s.pid m sd).symm
  have hf : f = readyFrame s addr seed m := by rw [readyFrame_eq_formula, ← hcrc]
  have hlen : f.length = addr.length + n + 4 + crc.length := by
    rw [hf, readyFrame_length, hcrc, crcField_length]
  refine ⟨s.submit f, hf ▸ hready.exec_llSend m, by simp, by simp, by simp [hlen], hf, hctl, ?_,
    by simp, by simp, ?_⟩
  · rintro sd rfl
    exact hcrc
  · apply State.ext_fields <;> simp

/-! ### The bind packet -/

theorem bindPacket_eq_bytes (a0 a1 a2 a3 a4 : Byte) :
    bindPacket ⟨a0, a1, a2, a3, a4⟩ = [0x18, 0x04, 0x06, a0, a1, a2, a3, a4, BitVec.ofNat 8
      ((a0.toNat + a1.toNat + a2.toNat + a3.toNat + a4.toNat) % 256)] := by
  rw [bindPacket, ← checksum_eq_ofNat]
  simp [Config.bindHdr, Addr.toList, Nat.add_assoc]

/-- Settles O32: ENC.BIND stores and responds the packet of `TXA`. -/
theorem encBindBuildsTheBindPacket : Obligations.EncBindBuildsTheBindPacket := by
  intro a0 a1 a2 a3 a4 s htxa p
  have hp : p = bindPacket ⟨a0, a1, a2, a3, a4⟩ := (bindPacket_eq_bytes a0 a1 a2 a3 a4).symm
  rw [hp]
  refine ⟨_, exec_encBind_of_txa htxa, by simp, by simp, by simp, by simp, rfl, ?_⟩
  apply State.ext_fields <;> simp

end Sys2Proof.Machine
end

section
/-! The CRC-16 generator (R130 to R134): one shift step and what it does to a byte in bits 15:8, the update
as steps of the bit-serial generator, injectivity in the state and in the byte, and the message and the
address as folds. -/

namespace Sys2Proof.Machine

/-! ### One shift step (R130) -/

/-- A byte as the update XORs it in: in bits 15:8 of the state (R130). -/
def crcEntry (a : Byte) : Half := a.zeroExtend 16 <<< 8

theorem crcUpdate_eq_crcShifts (c : Half) (a : Byte) (n : Nat) :
    crcUpdate c a n = crcShifts n (c ^^^ crcEntry a) := rfl

@[simp] theorem crcEntry_zero : crcEntry 0 = 0 := rfl

theorem crcEntry_extractLsb' (a : Byte) : (crcEntry a).extractLsb' 8 8 = a := by
  revert a; decide +kernel

theorem crcEntry_injective : Function.Injective crcEntry := fun a a' h => by
  rw [← crcEntry_extractLsb' a, h, crcEntry_extractLsb']

theorem crcEntry_msb (a : Byte) : (crcEntry a).msb = a.msb := by
  revert a; decide +kernel

theorem crcEntry_shiftLeft_one (a : Byte) : crcEntry a <<< 1 = crcEntry (a <<< 1) := by
  revert a; decide +kernel

/-- The shift step as R130 writes it, by bit 15 and the polynomial's value. -/
theorem crcShift_eq_ite :
    crcShift = fun c : Half => if c.getLsbD 15 then (c <<< 1) ^^^ 0x1021 else c <<< 1 :=
  funext fun c => by rw [crcShift, BitVec.msb_eq_getLsbD_last]; rfl

/-- The polynomial is odd, so bit 0 of the result tells whether it was XORed in. -/
theorem crcShift_getLsbD_zero (c : Half) : (crcShift c).getLsbD 0 = c.msb := by
  unfold crcShift
  cases c.msb <;> simp [Config.crcPoly]

theorem crcShift_injective : Function.Injective crcShift := by
  intro c c' h
  have hmsb : c.msb = c'.msb := by rw [← crcShift_getLsbD_zero, h, crcShift_getLsbD_zero]
  have hshift : c <<< 1 = c' <<< 1 := by
    unfold crcShift at h
    rw [hmsb] at h
    cases hm : c'.msb <;> simpa [hm] using h
  ext i hi
  by_cases htop : i = 15
  · subst htop
    simpa [BitVec.msb_eq_getLsbD_last] using hmsb
  · have hlt : i + 1 < 16 := by omega
    have hbit := congrArg (fun x : Half => x.getLsbD (i + 1)) hshift
    simpa [BitVec.getLsbD_shiftLeft, hlt] using hbit

theorem crcShifts_eq_iterate (n : Nat) : crcShifts n = crcShift^[n] := by
  induction n with
  | zero => rfl
  | succ n ih => rw [Function.iterate_succ, ← ih]; rfl

theorem crcShifts_injective (n : Nat) : Function.Injective (crcShifts n) := by
  rw [crcShifts_eq_iterate]
  exact crcShift_injective.iterate n

/-! ### The update: injectivity, and the bit-serial generator (R133, R134) -/

theorem crcUpdate_inj_state {c c' : Half} {a : Byte} {n : Nat} :
    crcUpdate c a n = crcUpdate c' a n ↔ c = c' :=
  (crcShifts_injective n).eq_iff.trans (BitVec.xor_left_inj _)

theorem crcUpdate_inj_byte {c : Half} {a a' : Byte} {n : Nat} :
    crcUpdate c a n = crcUpdate c a' n ↔ a = a' :=
  (crcShifts_injective n).eq_iff.trans ((BitVec.xor_right_inj _).trans crcEntry_injective.eq_iff)

/-- The one step behind R134: a shift with a byte XORed in is a serial step on the byte's top bit, with the
byte's other seven bits still to come XORed in one place higher. -/
theorem crcShift_xor_crcEntry (c : Half) (a : Byte) :
    crcShift (c ^^^ crcEntry a) = crcSerialStep c a.msb ^^^ crcEntry (a <<< 1) := by
  rw [crcShift, crcSerialStep, BitVec.msb_xor, crcEntry_msb, BitVec.shiftLeft_xor_distrib,
    crcEntry_shiftLeft_one]
  split
  · ac_rfl
  · rfl

theorem crcUpdate_succ (c : Half) (a : Byte) (n : Nat) :
    crcUpdate c a (n + 1) = crcUpdate (crcSerialStep c a.msb) (a <<< 1) n := by
  rw [crcUpdate_eq_crcShifts, crcShifts, crcShift_xor_crcEntry, crcUpdate_eq_crcShifts]

/-- Shifting a byte left takes its top bit off the front of its bit sequence. -/
theorem byteBits_shiftLeft_one (a : Byte) : byteBits a ++ [false] = a.msb :: byteBits (a <<< 1) := by
  revert a; decide +kernel

theorem take_succ_byteBits {n : Nat} (hn : n < 8) (a : Byte) :
    (byteBits a).take (n + 1) = a.msb :: (byteBits (a <<< 1)).take n := by
  rw [← List.take_succ_cons, ← byteBits_shiftLeft_one,
    List.take_append_of_le_length (by rw [byteBits_length]; omega)]

/-- Of a byte XORed in whole, `n` shifts take the first `n` bits as the serial generator does; the bits not
yet taken stand XORed in above (R130, R134). -/
theorem crcUpdate_eq_crcSerial_take {n : Nat} (hn : n ≤ 8) (c : Half) (a : Byte) :
    crcUpdate c a n = crcSerial c ((byteBits a).take n) ^^^ crcEntry (a <<< n) := by
  induction n generalizing c a with
  | zero => rw [BitVec.shiftLeft_zero]; rfl
  | succ n ih =>
    rw [crcUpdate_succ, ih (by omega), take_succ_byteBits hn, ← BitVec.shiftLeft_add, Nat.add_comm 1 n]
    rfl

theorem crcUpdate_one (c : Half) (a : Byte) :
    crcUpdate c a 1 = crcSerialStep c a.msb ^^^ crcEntry (a <<< 1) := crcUpdate_succ c a 0

/-- Eight shifts take every bit of the byte, bit 7 first (R134). -/
theorem crcUpdate_eight (c : Half) (a : Byte) : crcUpdate c a 8 = crcSerial c (byteBits a) := by
  rw [crcUpdate_eq_crcSerial_take (Nat.le_refl 8), BitVec.shiftLeft_eq_zero (Nat.le_refl 8)]
  exact BitVec.xor_zero

theorem shiftLeft_one_eq_zero_iff (a : Byte) : a <<< 1 = 0 ↔ a.extractLsb' 0 7 = 0 := by
  revert a; decide +kernel

/-- One shift leaves out nothing of the byte exactly when bits 6:0 are clear (R134). -/
theorem crcUpdate_one_eq_serialStep_iff (c : Half) (a : Byte) :
    crcUpdate c a 1 = crcSerialStep c a.msb ↔ a.extractLsb' 0 7 = 0 := by
  rw [crcUpdate_one, ← shiftLeft_one_eq_zero_iff, ← crcEntry_injective.eq_iff, crcEntry_zero,
    ← BitVec.xor_right_inj (crcSerialStep c a.msb) (y := 0)]
  exact Eq.congr_right BitVec.xor_zero.symm

/-! ### Folds over bytes (R131, R132) -/

theorem crcSerial_append (c : Half) (bs bs' : List Bool) :
    crcSerial c (bs ++ bs') = crcSerial (crcSerial c bs) bs' := List.foldl_append

/-- Eight shifts per byte are the serial generator over all bits of the bytes (R134). -/
theorem crcFold_eq_crcSerial (c : Half) (bs : List Byte) :
    crcFold c bs = crcSerial c (bs.flatMap byteBits) := by
  simp only [crcFold, crcUpdate_eight, crcSerial, List.foldl_flatMap]

@[simp] theorem crcMessage_singleton (s : Half) (b : Byte) : crcMessage s [b] = crcUpdate s b 1 := rfl

theorem crcMessage_cons {bs : List Byte} (h : bs ≠ []) (s : Half) (b : Byte) :
    crcMessage s (b :: bs) = crcMessage (crcUpdate s b 8) bs := by
  obtain ⟨b', bs, rfl⟩ := List.exists_cons_of_ne_nil h
  rfl

theorem crcMessage_concat (s : Half) (m : List Byte) (b : Byte) :
    crcMessage s (m ++ [b]) = crcUpdate (crcFold s m) b 1 := by
  induction m generalizing s with
  | nil => rfl
  | cons x xs ih =>
    rw [List.cons_append, crcMessage_cons (List.concat_ne_nil b xs), ih]
    rfl

theorem crcMessage_inj_state {s s' : Half} {m : List Byte} :
    crcMessage s m = crcMessage s' m ↔ s = s' := by
  induction s, m using crcMessage.induct generalizing s' with
  | case1 => rfl
  | case2 s b => exact crcUpdate_inj_state
  | case3 s b b' bs ih => exact ih.trans crcUpdate_inj_state

/-- Two messages that differ in one byte reach different states there, and the equal rest keeps them apart. -/
theorem crcMessage_set_eq_iff {s : Half} {m : List Byte} {i : Nat} (hi : i < m.length) {x : Byte} :
    crcMessage s (m.set i x) = crcMessage s m ↔ x = m[i] := by
  induction s, m using crcMessage.induct generalizing i with
  | case1 => cases hi
  | case2 s b =>
    obtain rfl : i = 0 := Nat.lt_one_iff.1 hi
    rw [List.set_cons_zero, crcMessage_singleton, crcMessage_singleton]
    exact crcUpdate_inj_byte
  | case3 s b b' bs ih =>
    have hne : b' :: bs ≠ [] := List.cons_ne_nil b' bs
    cases i with
    | zero =>
      rw [List.set_cons_zero, crcMessage_cons hne, crcMessage_cons hne, crcMessage_inj_state]
      exact crcUpdate_inj_byte
    | succ i =>
      have hset : (b' :: bs).set i x ≠ [] := by simp
      rw [List.set_cons_succ, crcMessage_cons hset, crcMessage_cons hne]
      exact ih (Nat.lt_of_succ_lt_succ hi)

/-- The carried bit and the upper seven bits of a byte, in order: one byte of the tail (R105). -/
theorem byteBits_carry (b : Bool) (x : Byte) :
    byteBits (carryByte b ||| (x >>> 1)) ++ [x.getLsbD 0] = b :: byteBits x := by
  revert b x; decide +kernel

theorem crcUpdate_carryByte_one (c : Half) (b : Bool) :
    crcUpdate c (carryByte b) 1 = crcSerialStep c b := by
  have hmsb : (carryByte b).msb = b := by cases b <;> rfl
  have hlow : (carryByte b).extractLsb' 0 7 = 0 := by cases b <;> rfl
  rw [(crcUpdate_one_eq_serialStep_iff c _).2 hlow, hmsb]

theorem tailFormula_ne_nil (carry : Byte) (content : List Byte) : tailFormula carry content ≠ [] := by
  cases content <;> exact List.cons_ne_nil _ _

/-- The last tail byte holds one content bit over zero padding, so its one shift is that bit's serial step:
the message CRC of a tail is the serial CRC of its bits (R105, R134). -/
theorem crcMessage_tailFormula (s : Half) (b : Bool) (content : List Byte) :
    crcMessage s (tailFormula (carryByte b) content) =
      crcSerial s (b :: content.flatMap byteBits) := by
  induction content generalizing s b with
  | nil => exact crcUpdate_carryByte_one s b
  | cons x xs ih =>
    calc crcMessage s (tailFormula (carryByte b) (x :: xs))
      _ = crcMessage (crcUpdate s (carryByte b ||| (x >>> 1)) 8) (tailFormula (x <<< 7) xs) :=
          crcMessage_cons (tailFormula_ne_nil _ _) _ _
      _ = crcSerial s (byteBits (carryByte b ||| (x >>> 1)) ++ [x.getLsbD 0] ++ xs.flatMap byteBits) := by
          rw [shiftLeft_seven, ih, crcUpdate_eight, ← crcSerial_append, List.append_assoc]; rfl
      _ = crcSerial s (b :: (x :: xs).flatMap byteBits) := by
          rw [byteBits_carry, List.flatMap_cons, List.cons_append]

/-- The framer's CRC as the serial CRC of the frame's bits before the CRC field (R134, R173). -/
theorem frameCrc_eq_crcSerial (c : Cfg) (pid : BitVec 2) (m : List Byte) (seed : Half) :
    frameCrc c pid m seed = crcSerial seed
      (byteBits (controlByte (min m.length 15) pid) ++ c.noackBit :: (scramble c m).flatMap byteBits) := by
  rw [frameCrc, crcMessageBytes, truncated_length, tailBytes_eq_formula, tailByFormula,
    crcMessage_cons (tailFormula_ne_nil _ _), crcUpdate_eight, crcSerial_append]
  exact crcMessage_tailFormula _ _ _

/-! ### What the operations respond, and the obligations (R121, R130 to R134) -/

theorem exec_crcMsg (seed : Half) (m : List Byte) (s : State) :
    exec (.crcMsg seed m) s = .next (s.respond (halfBytes (crcMessage seed m))) := rfl

theorem exec_crcSeed (len : Byte) (a : Addr) (s : State) :
    exec (.crcSeed len a) s = .next (s.respond (halfBytes (crcSeedOf len a))) := rfl

theorem shiftCountOk_iff {n : Byte} : shiftCountOk n = true ↔ 1 ≤ n.toNat ∧ n.toNat ≤ 8 := by
  simp [shiftCountOk]

theorem xor_twoPow_ne {w b : Nat} (hb : b < w) (x : BitVec w) : x ^^^ BitVec.twoPow w b ≠ x := by
  intro h
  have hbit := congrArg (fun y : BitVec w => y.getLsbD b) h
  simp [hb] at hbit

/-- Settles O13: the update by its serial steps, the tail's bits, and the fold over the address. -/
theorem crcEqualsTheBitSerialGenerator : Obligations.CrcEqualsTheBitSerialGenerator :=
  ⟨crcUpdate_eight, fun c a => (crcUpdate_one_eq_serialStep_iff c a).2,
    fun c a => mt (crcUpdate_one_eq_serialStep_iff c a).1, frameCrc_eq_crcSerial,
    fun _ _ => crcFold_eq_crcSerial _ _⟩

/-- Settles O12: the response is computed from the operands alone, and CRC.MSG is injective in each byte of
the message and in the seed. -/
theorem crcIsSensitiveToEverySingleBit : Obligations.CrcIsSensitiveToEverySingleBit :=
  ⟨fun seed m => ⟨halfBytes (crcMessage seed m), rfl, fun _ => rfl⟩,
    fun _ _ i b => mt (crcMessage_set_eq_iff i.isLt).1 (xor_twoPow_ne b.isLt _),
    fun _ _ b => mt crcMessage_inj_state.1 (xor_twoPow_ne b.isLt _)⟩

/-- Settles O11: the fold of all bytes but the last (`crcMessage_concat`). -/
theorem crcMsgRespondsTheMessageFold : Obligations.CrcMsgRespondsTheMessageFold := by
  intro seed m b s
  have hfold := crcMessage_concat seed m b
  exact ⟨⟨by rw [exec_crcMsg, hfold]; rfl, hfold⟩, rfl, rfl⟩

/-- Settles O10: the length clamp leaves four or five bytes to fold. -/
theorem crcSeedRespondsTheAddressFold : Obligations.CrcSeedRespondsTheAddressFold := by
  intro len a0 a1 a2 a3 a4 s u w
  have hseed : crcSeedOf len ⟨a0, a1, a2, a3, a4⟩ = w := by
    by_cases hlen : len.toNat ≤ 4
    · have hclamp : clampLen len = 4 := by unfold clampLen; omega
      rw [crcSeedOf, usedAddr, hclamp, show w = _ from if_pos hlen]
      rfl
    · have hclamp : clampLen len = 5 := by unfold clampLen; omega
      rw [crcSeedOf, usedAddr, hclamp, show w = _ from if_neg hlen]
      rfl
  exact ⟨by rw [exec_crcSeed, hseed]; rfl, hseed⟩

/-- Settles O9: the shift steps are an iteration, and the count is checked as R121 says. -/
theorem crcUpdRespondsTheUpdate : Obligations.CrcUpdRespondsTheUpdate := by
  intro c a n s w
  have hw : crcUpdate c a n.toNat = w := by
    rw [crcUpdate_eq_crcShifts, crcShifts_eq_iterate, crcShift_eq_ite]
    rfl
  refine ⟨fun hn => ?_, hw, fun hn => if_neg fun hok => ?_⟩
  · rw [← hw]
    exact if_pos (shiftCountOk_iff.2 hn)
  · have := shiftCountOk_iff.1 hok
    omega

end Sys2Proof.Machine
end

section
/-! The scrambler (R150 to R152): what it does to each byte of the payload, that it undoes itself, and what
the truncation to fifteen bytes keeps from the frame. -/

namespace Sys2Proof.Machine

/-! ### Byte by byte (R150) -/

theorem exec_scr (m : List Byte) (s : State) :
    exec (.scr m) s = .next (s.respond (scramble s.cfg m)) := rfl

theorem truncated_of_length_le {m : List Byte} (h : m.length ≤ 15) : truncated m = m :=
  List.take_of_length_le h

theorem truncated_getElem? {i : Nat} (hi : i < 15) (m : List Byte) : (truncated m)[i]? = m[i]? :=
  List.getElem?_take_of_lt hi

theorem scramble_getElem? {i : Nat} (hi : i < 15) (c : Cfg) (m : List Byte) :
    (scramble c m)[i]? = m[i]?.map (· ^^^ c.key[i]) := by
  have hkey : c.key.toList[i]? = some c.key[i] := by simp [hi]
  rw [scramble, List.getElem?_zipWith, truncated_getElem? hi, hkey]
  cases m[i]? <;> rfl

/-- Settles O14: SCR responds `scramble`, whose bytes `scramble_getElem?` gives. -/
theorem scrRespondsPayloadXorKey : Obligations.ScrRespondsPayloadXorKey := by
  intro m s
  refine ⟨scramble s.cfg m, exec_scr m s, scramble_length s.cfg m, rfl, fun i b hb => ?_⟩
  rw [scramble_getElem? i.isLt, hb]
  rfl

/-! ### Twice (R152) -/

/-- Each of the first fifteen bytes meets the same key byte twice, which cancels. -/
theorem scramble_scramble (c : Cfg) (m : List Byte) : scramble c (scramble c m) = truncated m := by
  have hcancel (b k : Byte) : b ^^^ k ^^^ k = b := by
    rw [BitVec.xor_assoc, BitVec.xor_self, BitVec.xor_zero]
  refine List.ext_getElem? fun i => ?_
  by_cases hi : i < 15
  · rw [scramble_getElem? hi, scramble_getElem? hi, truncated_getElem? hi]
    cases m[i]? with
    | none => rfl
    | some b => exact congrArg some (hcancel b _)
  · rw [List.getElem?_eq_none (by simp; omega), List.getElem?_eq_none (by simp; omega)]

/-- Settles O15: scrambling twice is the truncation, which leaves a payload of at most 15 bytes whole. -/
theorem scrambleTwiceIsTruncation : Obligations.ScrambleTwiceIsTruncation := fun c m =>
  ⟨fun h => (scramble_scramble c m).trans (truncated_of_length_le h), fun _ => scramble_scramble c m⟩

/-! ### What lies past the fifteenth byte (R151) -/

theorem exec_scr_truncated (m : List Byte) (s : State) :
    exec (.scr (truncated m)) s = exec (.scr m) s := by
  rw [exec_scr, scramble_truncated, exec_scr]

theorem exec_llSend_truncated (m : List Byte) (s : State) :
    exec (.llSend (truncated m)) s = exec (.llSend m) s :=
  congrArg Eff.outcome (send_truncated m s)

/-- The control byte stands after the address and the two guard bytes (R100). -/
theorem readyFrame_controlByte (s : State) (addr m : List Byte) (seed : Option Half) :
    (readyFrame s addr seed m)[addr.length + 2]? =
      some (BitVec.ofNat 8 (4 * min m.length 15 + s.pid.toNat)) := by
  rw [readyFrame_eq_formula, List.append_assoc, ← List.length_reverse (as := addr),
    List.getElem?_append_right (Nat.le_add_right _ 2), Nat.add_sub_cancel_left]
  rfl

/-- Settles O22: both operations see the payload only truncated, and the control byte of the ready frame
counts what is left. -/
theorem bytesPastTheFifteenthReachNothing : Obligations.BytesPastTheFifteenthReachNothing := by
  refine ⟨fun m s => ⟨(exec_scr_truncated m s).symm, (exec_llSend_truncated m s).symm, _, exec_scr m s⟩,
    fun m addr seed s hready => ⟨⟨_, hready.exec_llSend m⟩, _, readyFrame_controlByte s addr m seed, ?_⟩,
    fun c a ch x => ⟨bindPacket_length a, dataPacket_length c ch x⟩⟩
  have hpid := s.pid.isLt
  rw [BitVec.toNat_ofNat, Nat.mod_eq_of_lt (by omega)]

end Sys2Proof.Machine
end

section
/-! The framer's configuration and routing (R160 to R166, R176): what the length clamp leaves of an address,
what LL.CFG and LL.SETADDR write, the bounds of the frame, and the routing that service commands keep. -/

namespace Sys2Proof.Machine

/-! ### The address in use (R162, R163, R165) -/

theorem clampLen_eq_four {len : Byte} (h : len.toNat ≤ 4) : clampLen len = 4 := by
  unfold clampLen; omega

theorem clampLen_eq_five {len : Byte} (h : 5 ≤ len.toNat) : clampLen len = 5 := by
  unfold clampLen; omega

theorem clampLen_eq_ite (len : Byte) : clampLen len = if len.toNat ≤ 4 then 4 else 5 := by
  split
  · next h => exact clampLen_eq_four h
  · next h => exact clampLen_eq_five (by omega)

theorem usedAddr_four {len : Byte} (h : len.toNat ≤ 4) (a : Addr) :
    usedAddr len a = [a.a0, a.a1, a.a2, a.a3] := by
  rw [usedAddr, clampLen_eq_four h]; rfl

theorem usedAddr_five {len : Byte} (h : 5 ≤ len.toNat) (a : Addr) : usedAddr len a = a.toList := by
  rw [usedAddr, clampLen_eq_five h]; rfl

theorem usedAddr_getElem? (len : Byte) (a : Addr) (i : Nat) :
    (usedAddr len a)[i]? = if i < clampLen len then a.toList[i]? else none :=
  List.getElem?_take

/-- The last byte in use is `addr[L-1]` (R165). -/
theorem usedAddr_getLastD (len : Byte) (a : Addr) :
    (usedAddr len a).getLastD 0 = if len.toNat ≤ 4 then a.a3 else a.a4 := by
  split
  · next h => rw [usedAddr_four h]; rfl
  · next h => rw [usedAddr_five (by omega)]; rfl

theorem preambleByte_eq_ite (c : Cfg) (len : Byte) (a : Addr) :
    preambleByte c len a = if (if len.toNat ≤ 4 then a.a3 else a.a4).getLsbD 7 then c.preIfSet
      else c.preIfClear := by
  rw [preambleByte, usedAddr_getLastD]; rfl

/-- `setaddr` sees of its operands only the bytes in use, whose number is `L` (R163). -/
theorem setAddress_congr {len len' : Byte} {a a' : Addr} (h : usedAddr len a = usedAddr len' a')
    (s : State) : s.setAddress len a = s.setAddress len' a' := by
  have hlen : clampLen len = clampLen len' := by
    simpa only [usedAddr_length] using congrArg List.length h
  simp only [State.setAddress, preambleByte, crcSeedOf, h, hlen]

theorem exec_llSetaddr (len : Byte) (a : Addr) (s : State) :
    exec (.llSetaddr len a) s = .next (s.setAddress len a) := rfl

/-- Settles O17: the registers and the event of `setAddress`, with the address in use written out. -/
theorem llSetaddrLoadsTheAddress : Obligations.LlSetaddrLoadsTheAddress := by
  intro len a s
  refine ⟨clampLen len, s.setAddress len a, clampLen_eq_ite len, exec_llSetaddr len a s, fun i => ?_,
    by simp, rfl, rfl, ?event, ?frame, fun ⟨_, hset, hclear, _⟩ => ⟨hset, hclear⟩⟩
  · rw [setAddress_laddr, Memory.read_ofBytes, usedAddr_getElem?]
  case event => rw [← preambleByte_eq_ite]; rfl
  case frame => apply State.ext_fields <;> simp

/-- Two addresses with the same bytes in use act alike in LL.SETADDR and CRC.SEED (R163). -/
theorem exec_address_congr {len len' : Byte} {a a' : Addr} (h : usedAddr len a = usedAddr len' a')
    (s : State) :
    exec (.llSetaddr len a) s = exec (.llSetaddr len' a') s ∧
      exec (.crcSeed len a) s = exec (.crcSeed len' a') s := by
  constructor
  · rw [exec_llSetaddr, exec_llSetaddr, setAddress_congr h]
  · rw [exec_crcSeed, exec_crcSeed, crcSeedOf, crcSeedOf, h]

/-- Settles O18: the bytes in use are the first four up to length 4, and all five from length 5. -/
theorem addressLengthIsClamped : Obligations.AddressLengthIsClamped := by
  refine fun len a x s => ⟨fun h => exec_address_congr ?_ s, fun h => exec_address_congr ?_ s,
    _, exec_llSetaddr len a s⟩
  · rw [usedAddr_four h, usedAddr_four (by decide)]
  · rw [usedAddr_five h, usedAddr_five (by decide)]

/-! ### The CRC switch and the mode bits (R161) -/

/-- The mode mask and the CRC-enable bit are apart, so no flags byte has both under them. -/
theorem modeBits_and_crcEnMask {c : Cfg} (hw : c.WellFormed) (flags : Byte) :
    modeBits c flags &&& c.crcEnMask = 0 := by
  obtain ⟨-, -, -, -, hmask, -⟩ := hw
  rw [modeBits, BitVec.and_assoc, hmask]
  exact BitVec.and_zero

/-- INIT's flags turn the CRC on (table 4.2). -/
theorem crcEnable_initFlags {c : Cfg} (hw : c.WellFormed) : crcEnable c c.initFlags = true := by
  obtain ⟨-, -, -, -, -, hflags, -⟩ := hw
  rw [crcEnable_eq_decide, decide_eq_true hflags]

/-- Settles O16: `configure` is the two writes, and the mode mask leaves the CRC-enable bit out. -/
theorem llCfgSetsCrcEnable : Obligations.LlCfgSetsCrcEnable := by
  refine fun flags s => ⟨?_, fun hw => modeBits_and_crcEnMask hw flags⟩
  rw [← crcEnable_eq_decide]
  rfl

/-! ### The length of the frame (R176) -/

/-- A configured framer has 4 or 5 address bytes, so its frames have 8 to 26 bytes. -/
theorem FramerReady.readyFrame_bounds {s : State} {addr : List Byte} {seed : Option Half}
    (h : FramerReady s addr seed) (m : List Byte) :
    8 ≤ (readyFrame s addr seed m).length ∧ (readyFrame s addr seed m).length ≤ 26 := by
  obtain ⟨haddr, -⟩ := h
  rw [readyFrame_length]
  split <;> omega

/-- Settles O21: a configured framer submits `readyFrame`, whose length is `readyFrame_length`. -/
theorem frameLengthIsEightToTwentySix : Obligations.FrameLengthIsEightToTwentySix := by
  refine ⟨fun m addr seed s t hready h => ?_, fun addr s _ haddr => ?_, fun addr m sd s _ haddr hm => ?_⟩
  · obtain rfl := Host.Outcome.next.inj ((hready.exec_llSend m).symm.trans h)
    refine ⟨readyFrame s addr seed m, rfl, rfl, ?_, hready.readyFrame_bounds m⟩
    rw [readyFrame_length]
    cases seed <;> rfl
  · rw [readyFrame_length, haddr]; rfl
  · rw [readyFrame_length, haddr, hm]; rfl

/-! ### Routing (R63, R166, R245) -/

/-- The routing looks at the CRC switch, the phase, the address registers, `TXA` and `CFG` alone. -/
theorem Routed.of_kept {s t : State} (hr : Routed s) (hcrcen : t.crcen = s.crcen)
    (hphase : t.phase = s.phase) (haddr : AddressKept s t) (htxa : t.txa = s.txa)
    (hcfg : t.cfg = s.cfg) : Routed t := by
  obtain ⟨halen, hseed, hladdr⟩ := haddr
  simpa only [Routed, Addressed, hcrcen, hphase, halen, hseed, hladdr, htxa, hcfg] using hr

/-- INIT turns the CRC on and sets the public bind address (R236). -/
theorem init_routed {s : State} (hw : s.cfg.WellFormed) : Routed s.init := by
  rw [init_eq]
  exact ⟨congrArg _ (crcEnable_initFlags hw), .inl ⟨rfl, rfl, rfl, rfl⟩⟩

/-- DEINIT leaves every register but `RUN` (R250). -/
theorem deinit_routed {s : State} (hr : Routed s) : Routed s.deinit := by
  rw [deinit_eq]
  exact hr

/-- A tick keeps the routing, but for the last of the Bind phase, which moves to Data and to `TXA` at
once (R245). -/
theorem exec_tick_routed {s t : State} (hr : Routed s) (h : exec .tick s = .next t) : Routed t := by
  obtain ⟨f, common, ⟨a, n, bind⟩ | ⟨l, y, data⟩⟩ := exec_tick_next h
  · by_cases hn : n = 1
    · obtain ⟨hphase, hladdr, halen, hseed⟩ := bind.last hn
      exact ⟨common.crcen.trans hr.1,
        .inr ⟨hphase, a, common.txa.trans bind.txa, halen, hladdr, hseed⟩⟩
    · obtain ⟨hphase, hladdr, halen, hseed⟩ := bind.more hn
      exact hr.of_kept common.crcen (hphase.trans bind.phase.symm) ⟨halen, hseed, hladdr⟩ common.txa
        common.cfg
  · exact hr.of_kept common.crcen (data.phase'.trans data.phase.symm)
      ⟨data.alen, data.seed, data.laddr⟩ common.txa common.cfg

/-- Settles O50: INIT routes to the bind address, TICK keeps or moves the routing with the phase, and
DEINIT writes none of its registers. -/
theorem serviceKeepsTheRouting : Obligations.ServiceKeepsTheRouting := by
  rintro i s t (rfl | rfl | rfl) hinv hr h
  · obtain rfl : s.init = t := Host.Outcome.next.inj h
    exact init_routed hinv.cfg
  · exact exec_tick_routed (hr.resolve_left nofun) h
  · obtain rfl : s.deinit = t := Host.Outcome.next.inj h
    exact deinit_routed (hr.resolve_left nofun)

end Sys2Proof.Machine
end

section
/-! The channel scaler (R190 to R193): the formula as interpolation between the two ends, with the order
facts that bound it, and its 32-bit form. -/

namespace Sys2Proof.Machine

/-! ### Interpolation on integers (R190, R191) -/

/-- R190's formula at a channel value `x` that is already clamped, `m` the input bound. -/
def interpolate (m : Nat) (dmin dmax : Byte) (x : Int) : Int :=
  (((dmax.toNat : Int) - dmin.toNat) * (x + m)).tdiv (2 * m) + dmin.toNat

theorem clampChan_bounds (c : Cfg) (v : Word) :
    -(c.chMax : Int) ≤ clampChan c v ∧ clampChan c v ≤ c.chMax := by
  unfold clampChan clampInt
  omega

theorem clampChan_mono (c : Cfg) {v w : Word} (h : v.toInt ≤ w.toInt) :
    clampChan c v ≤ clampChan c w :=
  min_le_min_right _ (max_le_max_right _ h)

theorem clampChan_of_le {c : Cfg} {v : Word} (h : v.toInt ≤ -(c.chMax : Int)) :
    clampChan c v = -(c.chMax : Int) := by
  unfold clampChan clampInt
  omega

theorem clampChan_of_ge {c : Cfg} {v : Word} (h : (c.chMax : Int) ≤ v.toInt) :
    clampChan c v = c.chMax := by
  unfold clampChan clampInt
  omega

theorem scaleInt_eq_interpolate (c : Cfg) (v : Word) (dmin dmax : Byte) :
    scaleInt c v dmin dmax = interpolate c.chMax dmin dmax (clampChan c v) := by
  simp only [scaleInt, interpolate, sub_neg_eq_add, two_mul]

theorem interpolate_low (m : Nat) (dmin dmax : Byte) :
    interpolate m dmin dmax (-(m : Int)) = dmin.toNat := by
  simp [interpolate]

theorem interpolate_high {m : Nat} (hm : 1 ≤ m) (dmin dmax : Byte) :
    interpolate m dmin dmax m = dmax.toNat := by
  rw [interpolate, ← two_mul, Int.mul_tdiv_cancel _ (by omega), sub_add_cancel]

theorem interpolate_point (m : Nat) (d : Byte) (x : Int) : interpolate m d d x = d.toNat := by
  simp [interpolate]

/-- Truncating division by a positive number is monotone, so a rising range gives a monotone scale. -/
theorem interpolate_mono {m : Nat} (hm : 1 ≤ m) {dmin dmax : Byte} (hd : dmin.toNat ≤ dmax.toNat)
    {x y : Int} (h : x ≤ y) : interpolate m dmin dmax x ≤ interpolate m dmin dmax y := by
  have range : (0 : Int) ≤ (dmax.toNat : Int) - dmin.toNat := by omega
  have product := mul_le_mul_of_nonneg_left (add_le_add_left h m) range
  exact add_le_add_left (Int.tdiv_le_tdiv (by omega) product) _

theorem interpolate_antitone {m : Nat} (hm : 1 ≤ m) {dmin dmax : Byte} (hd : dmax.toNat ≤ dmin.toNat)
    {x y : Int} (h : x ≤ y) : interpolate m dmin dmax y ≤ interpolate m dmin dmax x := by
  have range : (dmax.toNat : Int) - dmin.toNat ≤ 0 := by omega
  have product := mul_le_mul_of_nonpos_left (add_le_add_left h m) range
  exact add_le_add_left (Int.tdiv_le_tdiv (by omega) product) _

/-- R193: between the input ends the scale lies between its values there. -/
theorem scaleInt_bounds {c : Cfg} (hm : 1 ≤ c.chMax) (v : Word) (dmin dmax : Byte) :
    (min dmin.toNat dmax.toNat : Nat) ≤ scaleInt c v dmin dmax ∧
      scaleInt c v dmin dmax ≤ (max dmin.toNat dmax.toNat : Nat) := by
  obtain ⟨low, high⟩ := clampChan_bounds c v
  rw [scaleInt_eq_interpolate]
  rcases Nat.le_total dmin.toNat dmax.toNat with hd | hd
  · rw [Nat.min_eq_left hd, Nat.max_eq_right hd, ← interpolate_low c.chMax dmin dmax,
      ← interpolate_high hm dmin dmax]
    exact ⟨interpolate_mono hm hd low, interpolate_mono hm hd high⟩
  · rw [Nat.min_eq_right hd, Nat.max_eq_left hd, ← interpolate_low c.chMax dmin dmax,
      ← interpolate_high hm dmin dmax]
    exact ⟨interpolate_antitone hm hd high, interpolate_antitone hm hd low⟩

/-! ### The scaled byte (R190, R193) -/

theorem scaleByte_toNat {c : Cfg} (hm : 1 ≤ c.chMax) (v : Word) (dmin dmax : Byte) :
    ((scaleByte c v dmin dmax).toNat : Int) = scaleInt c v dmin dmax := by
  have bounds := scaleInt_bounds hm v dmin dmax
  have := dmin.isLt
  have := dmax.isLt
  rw [scaleByte, BitVec.toNat_ofInt]
  omega

theorem scaleByte_toNat_eq_interpolate {c : Cfg} (hm : 1 ≤ c.chMax) (v : Word) (dmin dmax : Byte) :
    ((scaleByte c v dmin dmax).toNat : Int) = interpolate c.chMax dmin dmax (clampChan c v) :=
  (scaleByte_toNat hm v dmin dmax).trans (scaleInt_eq_interpolate c v dmin dmax)

theorem scaleByte_eq_of_interpolate {c : Cfg} {v : Word} {dmin dmax b : Byte}
    (h : interpolate c.chMax dmin dmax (clampChan c v) = b.toNat) : scaleByte c v dmin dmax = b := by
  rw [scaleByte, scaleInt_eq_interpolate, h, BitVec.ofInt_natCast, BitVec.ofNat_toNat,
    BitVec.setWidth_eq]

/-- Settles O25: SCALE responds `scaleByte`, which needs no reduction since the formula keeps between the
two ends. -/
theorem scaleRespondsTheFormula : Obligations.ScaleRespondsTheFormula := by
  intro v dmin dmax s hm
  have value := scaleByte_toNat hm v dmin dmax
  obtain ⟨low, high⟩ := scaleInt_bounds hm v dmin dmax
  rw [← value] at low high
  exact ⟨_, rfl, scaleByte_toNat_eq_interpolate hm v dmin dmax, rfl, value,
    Int.ofNat_le.1 low, Int.ofNat_le.1 high⟩

/-- Settles O26: the ends are those of `interpolate`, and clamping and interpolating are monotone. -/
theorem scaleIsMonotoneBetweenItsEnds : Obligations.ScaleIsMonotoneBetweenItsEnds := by
  intro c v w dmin dmax hm
  refine ⟨fun h => scaleByte_eq_of_interpolate ?_, fun h => scaleByte_eq_of_interpolate ?_,
    scaleByte_eq_of_interpolate (interpolate_point ..), fun h hd => ?_, fun h hd => ?_⟩
  · rw [clampChan_of_le h, interpolate_low]
  · rw [clampChan_of_ge h, interpolate_high hm]
  · rw [← Int.ofNat_le, scaleByte_toNat_eq_interpolate hm, scaleByte_toNat_eq_interpolate hm]
    exact interpolate_mono hm hd (clampChan_mono c h)
  · rw [← Int.ofNat_le, scaleByte_toNat_eq_interpolate hm, scaleByte_toNat_eq_interpolate hm]
    exact interpolate_antitone hm hd (clampChan_mono c h)

/-! ### The scaler in 32-bit words (R192) -/

/-- A value inside the 32-bit range is its own reduction to a signed word. -/
theorem bmod_word {n : Int} (h : |n| < 2 ^ 31) : n.bmod (2 ^ 32) = n := by
  rw [abs_lt] at h
  exact Int.bmod_eq_of_le (by omega) (by omega)

theorem byte_zeroExtend_toInt (b : Byte) : (b.zeroExtend 32 : Word).toInt = b.toNat := by
  have := b.isLt
  rw [BitVec.zeroExtend, BitVec.toInt_setWidth, bmod_word (by rw [abs_lt]; omega)]

theorem byteRange_abs_le (dmin dmax : Byte) : |(dmax.toNat : Int) - dmin.toNat| ≤ 255 := by
  have := dmin.isLt
  have := dmax.isLt
  rw [abs_le]
  omega

theorem product_abs_lt {c : Cfg} (hM : c.chMax ≤ 2 ^ 22) (v : Word) (dmin dmax : Byte) :
    |((dmax.toNat : Int) - dmin.toNat) * (clampChan c v + c.chMax)| < 2 ^ 31 := by
  obtain ⟨low, high⟩ := clampChan_bounds c v
  have offset : |clampChan c v + c.chMax| ≤ 2 ^ 23 := by
    rw [abs_le]
    omega
  calc |((dmax.toNat : Int) - dmin.toNat) * (clampChan c v + c.chMax)|
      = |(dmax.toNat : Int) - dmin.toNat| * |clampChan c v + c.chMax| := abs_mul _ _
    _ ≤ 255 * 2 ^ 23 := mul_le_mul (byteRange_abs_le dmin dmax) offset (abs_nonneg _) (by norm_num)
    _ < 2 ^ 31 := by norm_num

/-- The clamp of R191 in words, `hi` and `lo` the words of the two bounds. -/
theorem clampWord_toInt {c : Cfg} {v lo hi : Word} (hlo : lo.toInt = -(c.chMax : Int))
    (hhi : hi.toInt = c.chMax) :
    (if v.slt lo then lo else if hi.slt v then hi else v).toInt = clampChan c v := by
  simp only [BitVec.slt_iff_toInt_lt, hlo, hhi, clampChan, clampInt]
  split
  · omega
  · split <;> omega

/-- The words of the two input bounds and of the width between them. -/
theorem boundWords_toInt {m : Nat} (hM : m ≤ 2 ^ 22) :
    (BitVec.ofNat 32 m).toInt = m ∧ (-BitVec.ofNat 32 m).toInt = -(m : Int) ∧
      (BitVec.ofNat 32 m - -BitVec.ofNat 32 m).toInt = 2 * m := by
  have upper : (BitVec.ofNat 32 m).toInt = m := by
    rw [BitVec.toInt_ofNat', bmod_word (by rw [abs_lt]; omega)]
  have lower : (-BitVec.ofNat 32 m).toInt = -(m : Int) := by
    rw [BitVec.toInt_neg, upper, bmod_word (by rw [abs_lt]; omega)]
  refine ⟨upper, lower, ?_⟩
  rw [BitVec.toInt_sub, upper, lower, bmod_word (by rw [abs_lt]; omega)]
  ring

/-- Every operation of `scaleWord` stays inside the signed range, so it is the integer one (R192). -/
theorem scaleWord_toInt {c : Cfg} (hm : 1 ≤ c.chMax) (hM : c.chMax ≤ 2 ^ 22) (v : Word)
    (dmin dmax : Byte) : (scaleWord c v dmin dmax).toInt = scaleInt c v dmin dmax := by
  obtain ⟨upper, lower, width⟩ := boundWords_toInt hM
  have width_ne : BitVec.ofNat 32 c.chMax - -BitVec.ofNat 32 c.chMax ≠ -1#32 := fun h => by
    rw [h, show (-1#32).toInt = -1 from rfl] at width
    omega
  have range : |(dmax.toNat : Int) - dmin.toNat| < 2 ^ 31 :=
    (byteRange_abs_le dmin dmax).trans_lt (by norm_num)
  have offset : |clampChan c v + c.chMax| < 2 ^ 31 := by
    have := clampChan_bounds c v
    rw [abs_lt]
    omega
  have result : |scaleInt c v dmin dmax| < 2 ^ 31 := by
    have := scaleInt_bounds hm v dmin dmax
    have := dmin.isLt
    have := dmax.isLt
    rw [abs_lt]
    omega
  rw [scaleInt_eq_interpolate, interpolate] at result ⊢
  rw [scaleWord, BitVec.toInt_add, BitVec.toInt_sdiv_of_ne_or_ne _ _ (.inr width_ne), width,
    BitVec.toInt_mul, BitVec.toInt_sub, byte_zeroExtend_toInt, byte_zeroExtend_toInt, bmod_word range,
    BitVec.toInt_sub, clampWord_toInt lower upper, lower, sub_neg_eq_add, bmod_word offset,
    bmod_word (product_abs_lt hM v dmin dmax), bmod_word result]

/-- Settles O27: `scaleWord_toInt`, with the bounds its operations keep. -/
theorem scalerFitsThirtyTwoBits : Obligations.ScalerFitsThirtyTwoBits := by
  intro c v dmin dmax hm hM
  obtain ⟨low, high⟩ := clampChan_bounds c v
  exact ⟨scaleWord_toInt hm hM v dmin dmax, byteRange_abs_le dmin dmax, by omega, by omega,
    product_abs_lt hM v dmin dmax⟩

end Sys2Proof.Machine
end

section
/-! The arming tracker (R195 to R198): ARM on an edge and over a sequence, and the Bind-phase tick, which
neither moves the arm state nor looks at a channel. -/

namespace Sys2Proof.Machine

/-! ### One ARM (R195) -/

theorem exec_arm_tracked {s : State} {l : Bool} {x : Byte} (hl : s.lsign = .written l)
    (hx : s.aflags = .written x) (v : Word) :
    exec (.arm v) s = .next (s.tracked (positive v) l x) :=
  Eff.outcome_eq_next.2 (armTrack_tracked hl hx v)

theorem exec_arm_edge {v : Word} {s : State} {l : Bool} {x : Byte} (hl : s.lsign = .written l)
    (hx : s.aflags = .written x) (hv : positive v ≠ l) :
    exec (.arm v) s = .next (s.armEdge (positive v) x) :=
  Eff.outcome_eq_next.2 (armTrack_eq_ok.2 ⟨l, hl, .inr ⟨hv, x, hx, rfl⟩⟩)

/-- Settles O28, by the sign of the value and the sign remembered: two sustained signs and two edges. -/
theorem armTogglesOnASignChange : Obligations.ArmTogglesOnASignChange := by
  intro v l x s hl hx
  by_cases h : 0 < v.toInt
  · have sign : positive v = true := decide_eq_true h
    rw [if_pos h]
    cases l with
    | true => exact exec_arm_sustained hl sign
    | false =>
      rw [exec_arm_edge hl hx (by simp [sign]), sign]
      rfl
  · have sign : positive v = false := decide_eq_false h
    rw [if_neg h]
    cases l with
    | true =>
      rw [exec_arm_edge hl hx (by simp [sign]), sign]
      rfl
    | false => exact exec_arm_sustained hl sign

/-! ### A sequence of ARMs (R195, R197) -/

/-- What XORing `mask` in `n` times comes to. -/
def parityMask (n : Nat) (mask : Byte) : Byte := if n % 2 = 1 then mask else 0

theorem parityMask_add (m n : Nat) (mask : Byte) :
    parityMask (m + n) mask = parityMask m mask ^^^ parityMask n mask := by
  rcases Nat.mod_two_eq_zero_or_one m with hm | hm <;>
    rcases Nat.mod_two_eq_zero_or_one n with hn | hn <;> simp [parityMask, Nat.add_mod, hm, hn]

/-- The tracker XORs in the mask of each edge it saw: at most one, of one kind. -/
theorem trackedFlags_eq_parityMask (c : Cfg) (sgn l : Bool) (x : Byte) :
    trackedFlags c sgn l x = x ^^^ parityMask (if sgn && !l then 1 else 0) c.armBit ^^^
      parityMask (if !sgn && l then 1 else 0) c.disarmBit := by
  cases sgn <;> cases l <;> simp [trackedFlags, edgeFlags, parityMask]

/-- The first value of a sequence adds an edge exactly when it changes the sign. -/
theorem edges_cons (l : Bool) (v : Word) (vs : List Word) :
    risingEdges l (v :: vs) + fallingEdges l (v :: vs) =
      (if positive v = l then 0 else 1) +
        (risingEdges (positive v) vs + fallingEdges (positive v) vs) := by
  have first : (if positive v && !l then 1 else 0) + (if !positive v && l then 1 else 0) =
      if positive v = l then 0 else 1 := by
    cases positive v <;> cases l <;> rfl
  rw [← first, risingEdges, fallingEdges]
  omega

/-- No edge in the sequence, the sign is as it was. -/
theorem lastSign_of_no_edges {l : Bool} {vs : List Word}
    (h : risingEdges l vs + fallingEdges l vs = 0) : lastSign l vs = l := by
  induction vs generalizing l with
  | nil => rfl
  | cons v vs ih =>
    rw [edges_cons] at h
    split at h
    · next sustained => rw [lastSign, ih (by omega), sustained]
    · omega

/-- The state after a sequence of ARMs, `l` and `x` the sign and the flags before it. -/
def State.trackedAll (s : State) (l : Bool) (x : Byte) (vs : List Word) : State :=
  { s with
    lsign := .written (lastSign l vs)
    armed := if risingEdges l vs + fallingEdges l vs = 0 then s.armed else .written (lastSign l vs)
    aflags := .written (x ^^^ parityMask (risingEdges l vs) s.cfg.armBit ^^^
      parityMask (fallingEdges l vs) s.cfg.disarmBit) }

theorem trackedAll_cons (s : State) (l : Bool) (x : Byte) (v : Word) (vs : List Word) :
    s.trackedAll l x (v :: vs) =
      (s.tracked (positive v) l x).trackedAll (positive v) (trackedFlags s.cfg (positive v) l x) vs := by
  ext1 <;> simp only [State.trackedAll, State.tracked, lastSign]
  case armed =>
    rw [edges_cons]
    by_cases sustained : positive v = l
    · simp [sustained]
    · by_cases quiet : risingEdges (positive v) vs + fallingEdges (positive v) vs = 0
      · simp [sustained, quiet, lastSign_of_no_edges quiet]
      · rw [if_neg quiet, if_neg (by omega)]
  case aflags =>
    rw [trackedFlags_eq_parityMask, risingEdges, fallingEdges, parityMask_add, parityMask_add]
    congr 1
    ac_rfl

theorem execAll_arm {s : State} {l : Bool} {x : Byte} (hl : s.lsign = .written l)
    (hx : s.aflags = .written x) (vs : List Word) :
    execAll (vs.map .arm) s = .next (s.trackedAll l x vs) := by
  induction vs generalizing s l x with
  | nil =>
    have same : s.trackedAll l x [] = s := by
      ext1 <;> simp [State.trackedAll, lastSign, risingEdges, fallingEdges, parityMask, hl, hx]
    rw [same]
    rfl
  | cons v vs ih =>
    rw [List.map_cons, execAll, exec_arm_tracked hl hx, trackedAll_cons]
    exact ih rfl rfl

/-- Settles O29, by induction on the sequence (`execAll_arm`). -/
theorem armFlagsFollowEdgeParity : Obligations.ArmFlagsFollowEdgeParity :=
  fun vs l x s hl hx => ⟨s.trackedAll l x vs, execAll_arm hl hx vs, rfl, rfl, rfl, rfl⟩

/-! ### The Bind-phase tick and the channels (R198, R321) -/

/-- The state with other channel scripts, as the statement writes it. -/
def State.withChan (s : State) (chan : Vector (List Word) 10) : State :=
  { s with env := { s.env with chan := chan } }

/-- The framer reads no port. -/
theorem buildFrame_withChan (m : List Byte) (s : State) (chan : Vector (List Word) 10) :
    buildFrame m (s.withChan chan) = buildFrame m s := rfl

theorem bindTick_withChan {s t : State} (chan : Vector (List Word) 10) (h : bindTick s = .ok t) :
    bindTick (s.withChan chan) = .ok (t.withChan chan) := by
  obtain ⟨a, f, n, ha, hf, hn, rfl⟩ := bindTick_eq_ok.1 h
  have sent := (buildFrame_withChan (bindPacket a) (s.storePacket (bindPacket a)) chan).trans hf
  refine bindTick_eq_ok.2 ⟨a, f, n, ha, sent, hn, ?_⟩
  split <;> rfl

theorem applyPower_withChan {p : Byte} {s t : State} (chan : Vector (List Word) 10)
    (h : applyPower p s = .ok t) : applyPower p (s.withChan chan) = .ok (t.withChan chan) := by
  obtain ⟨q, hq, rfl⟩ := applyPower_eq_ok.1 h
  refine applyPower_eq_ok.2 ⟨q, hq, ?_⟩
  split <;> rfl

/-- A Bind-phase tick does the same to the rest from any channel scripts, and leaves them in place. -/
theorem exec_bindTick_withChan {s t : State} (chan : Vector (List Word) 10)
    (hp : s.phase = .written .bind) (h : exec .tick s = .next t) :
    exec .tick (s.withChan chan) = .next (t.withChan chan) := by
  obtain ⟨hrun, hbody⟩ := execTick_eq_next.1 h
  obtain ⟨ph, u, w, hph, hu, hw, rfl⟩ := tickBody_eq_ok.1 hbody
  obtain rfl : Phase.bind = ph := Reg.written.inj (hp.symm.trans hph)
  exact execTick_eq_next.2 ⟨hrun, tickBody_eq_ok.2 ⟨.bind, u.withChan chan, w.withChan chan, hph,
    bindTick_withChan chan hu, applyPower_withChan chan hw, rfl⟩⟩

/-- Settles O46: the law of the Bind-phase TICK for the arm state, and `exec_bindTick_withChan`. -/
theorem bindTicksIgnoreTheChannels : Obligations.BindTicksIgnoreTheChannels := by
  intro s t chan hp h
  have other := exec_bindTick_withChan chan hp h
  obtain ⟨f, -, ⟨a, n, bind⟩ | ⟨l, y, data⟩⟩ := exec_tick_next h
  · exact ⟨bind.armed, bind.aflags, bind.lsign, by rw [bind.env]; rfl, other⟩
  · nomatch hp.symm.trans data.phase

end Sys2Proof.Machine
end

section
/-! The checksum accumulator as a sum and the packets' checksums (R210, R211), and what an encoder's
packet depends on (R218). -/

namespace Sys2Proof.Machine

/-! ### The accumulator (R210) -/

theorem checksum_eq_sum (m : List Byte) : checksum m = m.sum := List.sum_eq_foldl.symm

theorem checksum_append (m m' : List Byte) : checksum (m ++ m') = checksum m + checksum m' := by
  simp only [checksum_eq_sum, List.sum_append]

theorem checksum_perm {m m' : List Byte} (h : m.Perm m') : checksum m = checksum m' := by
  simpa only [checksum_eq_sum] using h.sum_eq

theorem exec_csum (m : List Byte) (s : State) :
    exec (.csum m) s = .next (s.respond [checksum m]) := rfl

/-- Settles O31: the response is `checksum`, the sum modulo 256, and a sum has no order. -/
theorem csumRespondsTheSumModulo256 : Obligations.CsumRespondsTheSumModulo256 := fun m s =>
  ⟨checksum m, exec_csum m s, checksum_toNat m, rfl, fun m' h => by
    rw [exec_csum, exec_csum, checksum_perm h]⟩

/-! ### The packets' checksums (R211) -/

/-- The nine bytes before the data packet's checksum are its body. -/
theorem dataPacket_take_nine (c : Cfg) (ch : Channels) (x : Byte) :
    (dataPacket c ch x).take 9 = dataBody c ch x := rfl

theorem dataPacket_nine (c : Cfg) (ch : Channels) (x : Byte) :
    (dataPacket c ch x)[9]? = some (checksum (dataBody c ch x)) := rfl

/-- The bind packet's first eight bytes are its header and the address, the last five of them the
address. -/
theorem bindPacket_take_eight (a : Addr) : (bindPacket a).take 8 = Config.bindHdr ++ a.toList := rfl

theorem bindPacket_address (a : Addr) : ((bindPacket a).drop 3).take 5 = a.toList := rfl

theorem bindPacket_eight (a : Addr) : (bindPacket a)[8]? = some (checksum a.toList) := rfl

/-- The header the bind checksum leaves out sums to the excess of R211. -/
theorem checksum_bindHdr : checksum Config.bindHdr = 0x22 := by decide

/-- Settles O33: each packet ends with the checksum of its scope, and the bind packet's scope leaves out
the header, whose sum is 0x22. -/
theorem checksumScopeOfThePackets : Obligations.ChecksumScopeOfThePackets := by
  refine ⟨fun c ch x => ⟨checksum (dataBody c ch x), dataPacket_nine c ch x, ?_⟩,
    fun a => ⟨checksum a.toList, bindPacket_eight a, ?_, ?_⟩⟩
  · rw [dataPacket_take_nine]
  · rw [bindPacket_address]
  · rw [bindPacket_take_eight, checksum_append, checksum_bindHdr, BitVec.add_comm]

/-! ### What an encoder's packet depends on (R218) -/

/-- ENC.DATA completes only with `LSIGN` and `AFLAGS` written, on an edge or not (R215). -/
theorem written_of_exec_encData_next {s t : State} (h : exec .encData s = .next t) :
    ∃ l x, s.lsign = .written l ∧ s.aflags = .written x := by
  obtain ⟨l, y, u, hl, hy, -, rfl | ⟨x, hx, -⟩⟩ := exec_encData_next h
  · exact ⟨l, y, hl, hy⟩
  · exact ⟨l, x, hl, hx⟩

@[simp] theorem tracked_resp (s : State) (sgn l : Bool) (x : Byte) :
    (s.tracked sgn l x).resp = s.resp := rfl

/-- With `LSIGN` and `AFLAGS` written, the packet ENC.DATA stores and responds is a function of `CFG`,
those two registers and the channel values presented. -/
theorem exec_encData_packet {s t : State} {l : Bool} {x : Byte} (hl : s.lsign = .written l)
    (hx : s.aflags = .written x) (h : exec .encData s = .next t) :
    let ch := (s.env.readChannels s.cfg).1
    let p := dataPacket s.cfg ch (trackedFlags s.cfg (positive ch.arm) l x)
    t.resp = s.resp ++ p ∧ t.pkt = Memory.ofBytes p := by
  obtain rfl := Host.Outcome.next.inj ((exec_encData_tracked hl hx).symm.trans h)
  exact ⟨by simp, by simp⟩

/-- With `TXA` written, the packet ENC.BIND stores and responds is a function of it. -/
theorem exec_encBind_packet {s t : State} {a : Addr} (ha : s.txa = .written a)
    (h : exec .encBind s = .next t) :
    t.resp = s.resp ++ bindPacket a ∧ t.pkt = Memory.ofBytes (bindPacket a) := by
  obtain rfl := Host.Outcome.next.inj ((exec_encBind_of_txa ha).symm.trans h)
  exact ⟨by simp, by simp⟩

/-- Settles O35: each encoder's packet is a function of what the two states agree in
(`exec_encData_packet`, `exec_encBind_packet`). -/
theorem encodersCarryNothingOver : Obligations.EncodersCarryNothingOver := by
  refine ⟨fun s t s' t' hcfg hch hlsign haflags hs ht => ?_, fun s t s' t' htxa hs ht => ?_⟩
  · obtain ⟨l, x, hl, hx⟩ := written_of_exec_encData_next hs
    obtain ⟨sresp, spkt⟩ := exec_encData_packet hl hx hs
    obtain ⟨tresp, tpkt⟩ := exec_encData_packet (hlsign ▸ hl) (haflags ▸ hx) ht
    rw [← hch, ← hcfg] at tresp tpkt
    exact ⟨_, dataPacket_length _ _ _, sresp, tresp, spkt, tpkt⟩
  · obtain ⟨a, ha, -⟩ := exec_encBind_next hs
    obtain ⟨sresp, spkt⟩ := exec_encBind_packet ha hs
    obtain ⟨tresp, tpkt⟩ := exec_encBind_packet (htxa ▸ ha) ht
    exact ⟨_, bindPacket_length a, sresp, tresp, spkt, tpkt⟩

end Sys2Proof.Machine
end

section
/-! INIT's address (R231), and the tick (R230, R240 to R245): its next state in each phase, its completion
in a running session, and the one place where the phase moves. -/

namespace Sys2Proof.Machine

/-! ### Address derivation (R231) -/

/-- The identifiers and the zero bytes go through the mixer as one list. -/
theorem mixedState_eq_foldl (c : Cfg) (serial fixedId : Option (List Byte)) :
    mixedState c serial fixedId =
      (serial.getD [] ++ fixedId.getD [] ++ List.replicate c.nZero 0).foldl Config.mix c.mixSeed := by
  simp only [mixedState, mixBytes, List.foldl_append]

theorem derive_present {serial fixedId : Option (List Byte)} (h : serial ≠ none ∨ fixedId ≠ none)
    (c : Cfg) (draw : Addr) :
    derive c draw serial fixedId = addrOfState (mixedState c serial fixedId) :=
  if_neg (by simpa [imp_iff_not_or] using h)

/-- Without the directive INIT's address is what DERIVE gives for the two ports. -/
theorem deriveTxa_derived {e : Env} (h : e.txa = none) (c : Cfg) :
    (deriveTxa c e).1 = derive c (Config.freeTxa e.reads) (e.readSerial c).1
      (e.readSerial c).2.readFixedId.1 := by
  rw [deriveTxa, h]; rfl

theorem deriveTxa_directive {e : Env} {a : Addr} (h : e.txa = some a) (c : Cfg) :
    (deriveTxa c e).1 = a := by
  rw [deriveTxa, h]; rfl

/-- Settles O37: with an identifier the mixer's address, with none the free draw, and with the directive the
directive's, which INIT uses up. -/
theorem initDerivesTheAddress : Obligations.InitDerivesTheAddress := by
  intro s t h serial fixedId w
  obtain rfl : s.init = t := Host.Outcome.next.inj h
  have derived (hdir : s.env.txa = none) :
      s.init.txa = .written (derive s.cfg (Config.freeTxa s.env.reads) serial fixedId) :=
    congrArg _ (deriveTxa_derived hdir s.cfg)
  refine ⟨fun hdir hid => ?_, fun hdir hserial hfixedId => ?_,
    fun a hdir => congrArg _ (deriveTxa_directive hdir s.cfg), rfl⟩
  · have hw : mixedState s.cfg serial fixedId = w := mixedState_eq_foldl _ _ _
    rw [derived hdir, derive_present hid, hw]; rfl
  · rw [derived hdir, hserial, hfixedId]; rfl

/-! ### The next state of a tick (R240 to R245) -/

theorem halfBytes_eq (h : Half) : halfBytes h = [h.extractLsb' 8 8, h.extractLsb' 0 8] := rfl

/-- After the phase's part a tick applies a changed power level and responds the period (R243, R244). -/
theorem exec_tick_of_phaseTick {s u : State} {ph : Phase} {q : Byte} (hrun : s.run = true)
    (hph : s.phase = .written ph) (hu : phaseTick ph (s.withEnv s.env.readPower.2) = .ok u)
    (hq : u.txpwr = .written q) :
    exec .tick s = .next { u with
      txpwr := .written s.env.readPower.1
      resp := u.resp ++ halfBytes (BitVec.ofNat 16 u.cfg.period)
      events := u.events ++ if s.env.readPower.1 = q then [] else [.xSetpower s.env.readPower.1] } := by
  refine execTick_eq_next.2 ⟨hrun, tickBody_eq_ok.2 ⟨ph, u, _, hph, hu,
    applyPower_eq_ok.2 ⟨q, hq, rfl⟩, ?_⟩⟩
  by_cases hp : s.env.readPower.1 = q
  · ext1 <;> simp [hp, hq]
  · ext1 <;> simp [hp]

/-- The framer looks at `CFG`, `PID`, the address registers and the CRC switch alone (R170). -/
theorem FramerReady.buildFrame_of_kept {s t : State} {addr : List Byte} {seed : Option Half}
    (h : FramerReady s addr seed) (haddr : AddressKept s t) (hcrcen : t.crcen = s.crcen)
    (hcfg : t.cfg = s.cfg) (hpid : t.pid = s.pid) (m : List Byte) :
    buildFrame m t = .ok (readyFrame s addr seed m) := by
  obtain ⟨halen, hseed, hladdr⟩ := haddr
  have ready : FramerReady t addr seed := by
    simpa only [FramerReady, halen, hseed, hladdr, hcrcen] using h
  rw [ready.buildFrame_eq, readyFrame, readyFrame, hcfg, hpid]

/-- The Bind-phase part of a tick, which switches exactly at count 1 (R241, R245). -/
theorem FramerReady.bindTick_eq {s : State} {addr : List Byte} {seed : Option Half} {a : Addr}
    {n : Half} (h : FramerReady s addr seed) (ha : s.txa = .written a) (hn : s.bcnt = .written n) :
    bindTick s = .ok (
      let u := ((s.storePacket (bindPacket a)).submit
        (readyFrame s addr seed (bindPacket a))).countDown n
      if n = 1 then u.toData a else u) := by
  have sent := h.buildFrame_of_kept (t := s.storePacket (bindPacket a)) ⟨rfl, rfl, rfl⟩ rfl rfl rfl
    (bindPacket a)
  refine bindTick_eq_ok.2 ⟨a, _, n, ha, sent, hn, ?_⟩
  simp only [sub_one_eq_zero]

/-- ENC.DATA leaves what the framer looks at as it was (R215). -/
theorem encodeData_keeps_framer {s u : State} {p : List Byte} (h : encodeData s = .ok (p, u)) :
    AddressKept s u ∧ u.crcen = s.crcen ∧ u.cfg = s.cfg ∧ u.pid = s.pid := by
  obtain ⟨t, y, ht, -, hr⟩ := encodeData_eq_ok.1 h
  obtain ⟨-, rfl⟩ := Prod.mk.inj hr
  obtain ⟨l, -, ⟨-, rfl⟩ | ⟨-, x, -, rfl⟩⟩ := armTrack_eq_ok.1 ht <;> simp [AddressKept]

/-- The Data-phase part of a tick: ENC.DATA, and its packet sent (R242). -/
theorem FramerReady.dataTick_eq {s u : State} {addr p : List Byte} {seed : Option Half}
    (h : FramerReady s addr seed) (enc : encodeData s = .ok (p, u)) :
    dataTick s = .ok (u.submit (readyFrame s addr seed p)) := by
  obtain ⟨haddr, hcrcen, hcfg, hpid⟩ := encodeData_keeps_framer enc
  exact dataTick_eq_ok.2 ⟨_, _, enc, h.buildFrame_of_kept haddr hcrcen hcfg hpid p, rfl⟩

/-- Settles O40: the Bind-phase part with the power port read, then the power level and the response. -/
theorem bindTickSendsCountsAndSwitches : Obligations.BindTickSendsCountsAndSwitches := by
  intro s a n q addr seed hrun hphase htxa hbcnt hq hready c p f x per
  have part : phaseTick .bind (s.withEnv p.2) = .ok (
      let u := (((s.withEnv p.2).storePacket (bindPacket a)).submit f).countDown n
      if n = 1 then u.toData a else u) :=
    FramerReady.bindTick_eq (s := s.withEnv p.2) hready htxa hbcnt
  by_cases hn : n = 1
  · simp only [if_pos hn] at part ⊢
    refine (exec_tick_of_phaseTick (q := q) hrun hphase part (by simp [hq])).trans (congrArg _ ?_)
    ext1
    case seed => rfl
    all_goals simp [c, p, per, x, halfBytes_eq, preambleByte_fullLen]
  · simp only [if_neg hn] at part ⊢
    refine (exec_tick_of_phaseTick (q := q) hrun hphase part (by simp [hq])).trans (congrArg _ ?_)
    ext1 <;> simp [c, p, per, halfBytes_eq, hphase]

/-- Settles O41: the Data-phase part with the power port read, then the power level and the response; with
every channel held, the reads are those of `readChannels_held`. -/
theorem dataTickSendsTheDataPacket : Obligations.DataTickSendsTheDataPacket := by
  intro s l x q addr seed hrun hphase hl hx hq hready c p ch sgn y pk f per
  refine ⟨?_, fun v hv => congrArg Prod.fst (readChannels_held (e := p.2) hv c)⟩
  have hy : trackedFlags c sgn l x = y := rfl
  have hpk : pk.length = 10 := dataPacket_length c ch.1 y
  have enc : encodeData (s.withEnv p.2) =
      .ok (pk, (((s.withEnv p.2).withEnv ch.2).tracked sgn l x).storePacket pk) :=
    encodeData_tracked hl hx
  have part : phaseTick .data (s.withEnv p.2) =
      .ok (((((s.withEnv p.2).withEnv ch.2).tracked sgn l x).storePacket pk).submit f) :=
    FramerReady.dataTick_eq (s := s.withEnv p.2) hready enc
  refine (exec_tick_of_phaseTick (q := q) hrun hphase part (by simp [State.tracked, hq])).trans
    (congrArg _ ?_)
  ext1 <;> simp [State.tracked, c, p, per, ← hy, hpk, halfBytes_eq]

/-! ### A tick of a running session -/

/-- Settles O42: a running state of the invariant is in a session, where TICK completes, and every tick that
completes does these things. -/
theorem runningTickCompletes : Obligations.RunningTickCompletes := by
  intro s hinv hrun
  have session : InSession s := hinv.session.resolve_left fun ⟨stopped, _⟩ => by
    simp [hrun] at stopped
  obtain ⟨t, h⟩ := exec_tick_completes hinv.address session hrun
  obtain ⟨f, common, -⟩ := exec_tick_next h
  obtain ⟨ev, hev, once⟩ := common.events
  obtain ⟨-, -, -, -, -, -, -, -, -, -, period, -⟩ := hinv.cfg
  exact ⟨t, f, ev, h, hev, once, common.pid, common.run', by rw [common.resp, period]; rfl⟩

/-- A tick moves the phase exactly when it counts from 1 in Bind, and then to Data (R230). -/
theorem exec_tick_phase {s t : State} (h : exec .tick s = .next t) :
    (s.phase = .written .bind ∧ s.bcnt = .written 1 ∧ t.phase = .written .data ∧
        t.bcnt = .written 0) ∨
      (¬(s.phase = .written .bind ∧ s.bcnt = .written 1) ∧ t.phase = s.phase) := by
  obtain ⟨f, -, ⟨a, n, bind⟩ | ⟨l, y, data⟩⟩ := exec_tick_next h
  · by_cases hn : n = 1
    · exact .inl ⟨bind.phase, hn ▸ bind.bcnt, (bind.last hn).1, by rw [bind.bcnt', hn]; rfl⟩
    · refine .inr ⟨fun ⟨_, one⟩ => hn (Reg.written.inj (bind.bcnt.symm.trans one)), ?_⟩
      exact (bind.more hn).1.trans bind.phase.symm
  · exact .inr ⟨fun ⟨hbind, _⟩ => by simp [data.phase] at hbind, data.phase'.trans data.phase.symm⟩

/-- Settles O44: INIT and TICK are the writers of `PHASE` and `BCNT`, and `exec_tick_phase`. -/
theorem phaseNeverRegresses : Obligations.PhaseNeverRegresses := by
  have others (i : Instr) (s t : State) (h : exec i s = .next t) (hinit : i ≠ .init)
      (htick : i ≠ .tick) : t.phase = s.phase ∧ t.bcnt = s.bcnt := by
    obtain ⟨-, -, -, -, hphase, -⟩ := registersHaveTheirWriters i s t h
    obtain ⟨hphase, hbcnt, -⟩ := hphase.resolve_left (not_or.2 ⟨hinit, htick⟩)
    exact ⟨hphase, hbcnt⟩
  refine ⟨fun i s t h moved => ?_, fun s t h hphase hbcnt => ?_, fun s t h => ?_, others⟩
  · by_cases hinit : i = .init
    · subst hinit
      obtain rfl : s.init = t := Host.Outcome.next.inj h
      exact .inl ⟨rfl, rfl, rfl⟩
    by_cases htick : i = .tick
    · subst htick
      obtain ⟨hphase, hbcnt, hphase', hbcnt'⟩ | ⟨-, kept⟩ := exec_tick_phase h
      · exact .inr ⟨rfl, hphase, hphase', hbcnt, hbcnt'⟩
      · exact absurd kept moved
    · exact absurd (others i s t h hinit htick).1 moved
  · obtain ⟨-, -, hphase', -⟩ | ⟨more, -⟩ := exec_tick_phase h
    · exact hphase'
    · exact absurd ⟨hphase, hbcnt⟩ more
  · obtain rfl : s.init = t := Host.Outcome.next.inj h
    exact ⟨rfl, rfl⟩

end Sys2Proof.Machine
end

section
/-! A session from INIT on, tick by tick (R251): `BIND_COUNT` ticks in Bind, one transition, then Data. -/

namespace Sys2Proof.Machine

/-! ### The frame of a routed tick (R100, R103, R166) -/

/-- Frame `f` begins with the five bytes of `a` in transmitted order and carries packet-id `pid`. -/
def FrameHead (f : List Byte) (a : Addr) (pid : BitVec 2) : Prop :=
  f.take 5 = a.toList.reverse ∧ ∃ b, f[7]? = some b ∧ b.extractLsb' 0 2 = pid

theorem readyFrame_head (s : State) (a : Addr) (seed : Option Half) (m : List Byte) :
    FrameHead (readyFrame s a.toList seed m) a s.pid := by
  have control := readyFrame_controlByte s a.toList m seed
  rw [← controlByte_eq_ofNat (Nat.min_le_right _ _)] at control
  exact ⟨rfl, _, control, controlByte_pid _ _⟩

/-- A full address with the CRC on is all the framer needs (R160, R170). -/
theorem Addressed.framerReady {s : State} {a : Addr} (h : Addressed s a)
    (hcrcen : s.crcen = .written true) :
    FramerReady s a.toList (some (crcFold Config.crcInit a.toList.reverse)) := by
  obtain ⟨halen, hladdr, hseed⟩ := h
  exact ⟨.inr rfl, halen, fun i _ => by rw [hladdr, Memory.read_ofBytes],
    .inr ⟨_, rfl, hcrcen, hseed⟩⟩

theorem Routed.addressed_bind {s : State} (h : Routed s) (hp : s.phase = .written .bind) :
    Addressed s s.cfg.bindAddr := by
  obtain ⟨-, ⟨-, haddr⟩ | ⟨hdata, -⟩⟩ := h
  · exact haddr
  · nomatch hp.symm.trans hdata

theorem Routed.addressed_data {s : State} {a : Addr} (h : Routed s) (hp : s.phase = .written .data)
    (ha : s.txa = .written a) : Addressed s a := by
  obtain ⟨-, ⟨hbind, -⟩ | ⟨-, a', ha', haddr⟩⟩ := h
  · nomatch hp.symm.trans hbind
  · obtain rfl := Reg.written.inj (ha.symm.trans ha')
    exact haddr

/-! ### The events of the transition (R245) -/

/-- `n` transitions' worth of events stand in `ev`: one `BINDSTAT(0)` and one `XW_TXADDR` each. -/
def Transitions (ev : List Event) (n : Nat) : Prop :=
  ev.count (.bindstat 0) = n ∧ ev.countP Event.isTxaddr = n

theorem Transitions.append {ev ev' : List Event} {n n' : Nat} (h : Transitions ev n)
    (h' : Transitions ev' n') : Transitions (ev ++ ev') (n + n') := by
  simp only [Transitions, List.count_append, List.countP_append] at *
  omega

theorem transitions_payload (f : List Byte) : Transitions [.xwPayload f, .xwPayload f] 0 := by
  simp [Transitions, Event.isTxaddr]

theorem transitions_power (p q : Byte) :
    Transitions (if p = q then [] else [.xSetpower p]) 0 := by
  split <;> simp [Transitions, Event.isTxaddr]

theorem transitions_switch (p : Prop) [Decidable p] (x : List Byte) :
    Transitions (if p then [.xwTxaddr x, .bindstat 0] else []) (if p then 1 else 0) := by
  split
  · exact ⟨by simp, rfl⟩
  · exact ⟨rfl, rfl⟩

/-! ### A session after `k` ticks -/

/-- `u` is where the session begun in `t` with address `a` stands after `k` ticks (R251). -/
structure SessionAt (t : State) (a : Addr) (k : Nat) (u : State) : Prop where
  cfg : u.cfg = t.cfg
  run : u.run = true
  txa : u.txa = .written a
  pid : u.pid = BitVec.ofNat 2 k
  session : InSession u
  routed : Routed u
  bind : k < t.cfg.bindCount →
    u.phase = .written .bind ∧ u.bcnt = .written (BitVec.ofNat 16 (t.cfg.bindCount - k))
  data : t.cfg.bindCount ≤ k → u.phase = .written .data ∧ u.bcnt = .written 0
  events : ∃ ev, u.events = t.events ++ ev ∧ Transitions ev (if t.cfg.bindCount ≤ k then 1 else 0)

theorem init_sessionAt {s : State} (hw : s.cfg.WellFormed) :
    SessionAt s.init (deriveTxa s.cfg s.env).1 0 s.init := by
  have ⟨_, _, _, _, _, _, _, _, _, ⟨hmin, _⟩, _⟩ := hw
  have started : ¬ s.init.cfg.bindCount ≤ 0 := Nat.not_le_of_lt hmin
  exact
    { cfg := rfl
      run := rfl
      txa := rfl
      pid := rfl
      session := init_inSession hw
      routed := init_routed hw
      bind := fun _ => ⟨rfl, rfl⟩
      data := fun h => absurd h started
      events := ⟨[], (List.append_nil _).symm, by rw [if_neg started]; exact ⟨rfl, rfl⟩⟩ }

/-- The countdown reads 1 exactly before the last tick of Bind. -/
theorem countdown_eq_one_iff {m k : Nat} (hm : m ≤ 65535) (hk : k < m) :
    BitVec.ofNat 16 (m - k) = 1 ↔ k + 1 = m := by
  rw [← BitVec.toNat_inj, BitVec.toNat_ofNat, Nat.mod_eq_of_lt (by omega)]
  change m - k = 1 ↔ _
  omega

theorem countdown_sub_one {m k : Nat} (hk : k < m) :
    BitVec.ofNat 16 (m - k) - 1 = BitVec.ofNat 16 (m - (k + 1)) := by
  rw [show m - k = m - (k + 1) + 1 by omega, BitVec.ofNat_add]
  exact BitVec.add_sub_cancel _ _

/-- The next tick of a session: one frame, sent twice, with the active address at its head, and the
transition's events in tick `BIND_COUNT` alone. -/
theorem SessionAt.tick {t u : State} {a : Addr} {k : Nat} (h : SessionAt t a k u)
    (hmax : t.cfg.bindCount ≤ 65535) :
    ∃ v f ev, exec .tick u = .next v ∧
      v.events = u.events ++ ([.xwPayload f, .xwPayload f] ++ ev) ∧
      Transitions ev (if k + 1 = t.cfg.bindCount then 1 else 0) ∧
      FrameHead f (if k < t.cfg.bindCount then t.cfg.bindAddr else a) u.pid := by
  obtain ⟨-, ⟨q, hq⟩, -, -, ⟨r, e, hlsign, -, haflags⟩, -⟩ := h.session
  by_cases hk : k < t.cfg.bindCount
  · obtain ⟨hphase, hbcnt⟩ := h.bind hk
    have ready := (h.routed.addressed_bind hphase).framerReady h.routed.1
    have run := bindTickSendsCountsAndSwitches u a _ q _ _ h.run hphase h.txa hbcnt hq ready
    refine ⟨_, _, _, run, by simp only [List.append_assoc]; rfl, ?_, ?_⟩
    · simp only [countdown_eq_one_iff hmax hk]
      exact (transitions_switch _ _).append (transitions_power _ _)
    · rw [if_pos hk, ← h.cfg]
      exact readyFrame_head _ _ _ _
  · obtain ⟨hphase, -⟩ := h.data (Nat.le_of_not_lt hk)
    have ready := (h.routed.addressed_data hphase h.txa).framerReady h.routed.1
    obtain ⟨run, -⟩ :=
      dataTickSendsTheDataPacket u _ _ q _ _ h.run hphase hlsign haflags hq ready
    refine ⟨_, _, _, run, List.append_assoc _ _ _, ?_, ?_⟩
    · have later : k + 1 ≠ t.cfg.bindCount := by omega
      rw [if_neg later]
      exact transitions_power _ _
    · rw [if_neg hk]
      exact readyFrame_head _ _ _ _

/-- A tick of a session is one step on in it. -/
theorem SessionAt.next {t u v : State} {a : Addr} {k : Nat} (h : SessionAt t a k u)
    (hmax : t.cfg.bindCount ≤ 65535) (hv : exec .tick u = .next v) : SessionAt t a (k + 1) v := by
  obtain ⟨f, common, phase⟩ := exec_tick_next hv
  have phases : (k + 1 < t.cfg.bindCount → v.phase = .written .bind ∧
        v.bcnt = .written (BitVec.ofNat 16 (t.cfg.bindCount - (k + 1)))) ∧
      (t.cfg.bindCount ≤ k + 1 → v.phase = .written .data ∧ v.bcnt = .written 0) := by
    by_cases hk : k < t.cfg.bindCount
    · obtain ⟨hphase, hbcnt⟩ := h.bind hk
      obtain ⟨a', n, bind⟩ | ⟨l, y, data⟩ := phase
      · obtain rfl := Reg.written.inj (hbcnt.symm.trans bind.bcnt)
        have one := countdown_eq_one_iff hmax hk
        have hbcnt' := bind.bcnt'.trans (congrArg _ (countdown_sub_one hk))
        refine ⟨fun more => ⟨(bind.more (mt one.1 (by omega))).1, hbcnt'⟩, fun last => ?_⟩
        have hlast : k + 1 = t.cfg.bindCount := by omega
        exact ⟨(bind.last (one.2 hlast)).1, by rw [hbcnt', hlast, Nat.sub_self]; rfl⟩
      · nomatch hphase.symm.trans data.phase
    · obtain ⟨hphase, hbcnt⟩ := h.data (Nat.le_of_not_lt hk)
      obtain ⟨a', n, bind⟩ | ⟨l, y, data⟩ := phase
      · nomatch hphase.symm.trans bind.phase
      · exact ⟨fun more => by omega, fun _ => ⟨data.phase', data.bcnt.trans hbcnt⟩⟩
  exact
    { cfg := common.cfg.trans h.cfg
      run := common.run'
      txa := common.txa.trans h.txa
      pid := by rw [common.pid, h.pid, BitVec.ofNat_add]; rfl
      session := exec_keeps_inSession h.session hv nofun
      routed := exec_tick_routed h.routed hv
      bind := phases.1
      data := phases.2
      events := by
        obtain ⟨ev, hev, before⟩ := h.events
        obtain ⟨w, f', ev', hw, hev', now, -⟩ := h.tick hmax
        obtain rfl := Host.Outcome.next.inj (hw.symm.trans hv)
        refine ⟨_, by rw [hev', hev, List.append_assoc], ?_⟩
        have total := before.append ((transitions_payload f').append now)
        have count : (if t.cfg.bindCount ≤ k then 1 else 0) +
            (0 + if k + 1 = t.cfg.bindCount then 1 else 0) =
            if t.cfg.bindCount ≤ k + 1 then 1 else 0 := by
          split_ifs <;> omega
        rwa [count] at total }

/-! ### The run -/

/-- One more command at the end of a run that completes. -/
theorem execAll_concat {is : List Instr} {i : Instr} {s t u : State}
    (h : execAll is s = .next t) (hi : exec i t = .next u) : execAll (is ++ [i]) s = .next u := by
  induction is generalizing s with
  | nil =>
    obtain rfl : s = t := Host.Outcome.next.inj h
    simp [execAll, hi]
  | cons j js ih =>
    simp only [List.cons_append, execAll] at h ⊢
    split at h
    · exact ih h
    all_goals cases h

/-- `k` ticks of a session complete and are `k` steps on in it. -/
theorem SessionAt.ticks {t : State} {a : Addr} (h : SessionAt t a 0 t)
    (hmax : t.cfg.bindCount ≤ 65535) (k : Nat) :
    ∃ u, execAll (ticks k) t = .next u ∧ SessionAt t a k u := by
  induction k with
  | zero => exact ⟨t, rfl, h⟩
  | succ k ih =>
    obtain ⟨u, hrun, hu⟩ := ih
    obtain ⟨v, -, -, hv, -⟩ := hu.tick hmax
    refine ⟨v, ?_, hu.next hmax hv⟩
    rw [Machine.ticks, List.replicate_succ']
    exact execAll_concat hrun hv

/-- Settles O43: INIT begins a session, `SessionAt.ticks` is its state after `k` ticks, and `SessionAt.tick`
the tick after those. -/
theorem sessionRunsBindThenData : Obligations.SessionRunsBindThenData := by
  intro s k hw
  have ⟨_, _, _, _, _, _, _, _, _, ⟨_, hmax⟩, _⟩ := hw
  obtain ⟨u, hrun, hu⟩ := (init_sessionAt hw).ticks hmax k
  obtain ⟨v, f, ev', hv, hev', -, head, b, hb, hpid⟩ := hu.tick hmax
  obtain ⟨ev, hev, bindstats, txaddrs⟩ := hu.events
  refine ⟨s.init, u, v, f, _, rfl, hrun, hv, rfl, hu.txa, hu.run, hu.pid, hu.bind, hu.data, ?_, ?_, ?_,
    ?_, head, b, hb, hpid.trans hu.pid⟩
  · rw [hev, List.drop_left]; exact bindstats
  · rw [hev, List.drop_left]; exact txaddrs
  · rw [init_eq, List.drop_left]; rfl
  · rw [hev', List.drop_left]; rfl

end Sys2Proof.Machine
end

section
/-! Reset and hazards: power-on (R300), what INIT takes over from the state before it (R301), DEINIT (R302)
and TICK while stopped (R322). -/

namespace Sys2Proof.Machine

/-! ### INIT and the state before it (R301) -/

/-- INIT's address depends on the state before it only in the free draw, which an identifier or the
directive rules out (R231). -/
theorem deriveTxa_eq_of_inputs {c : Cfg} {e e' : Env} (hdir : e.txa = e'.txa)
    (hserial : (e.readSerial c).1 = (e'.readSerial c).1)
    (hfixedId : (e.readSerial c).2.readFixedId.1 = (e'.readSerial c).2.readFixedId.1)
    (determined : (e.readSerial c).1 ≠ none ∨ (e.readSerial c).2.readFixedId.1 ≠ none ∨ e.txa ≠ none) :
    (deriveTxa c e).1 = (deriveTxa c e').1 := by
  cases hd : e.txa with
  | some a => rw [deriveTxa_directive hd, deriveTxa_directive (hdir.symm.trans hd)]
  | none =>
    have present : (e.readSerial c).1 ≠ none ∨ (e.readSerial c).2.readFixedId.1 ≠ none :=
      determined.imp_right (·.resolve_right (not_not_intro hd))
    rw [deriveTxa_derived hd, deriveTxa_derived (hdir.symm.trans hd), ← hserial, ← hfixedId,
      derive_present present, derive_present present]

/-- The power level INIT reads is what the port presents after the two identifier reads: using up the
directive does not touch it. -/
theorem deriveTxa_readPower (c : Cfg) (e : Env) :
    (deriveTxa c e).2.readPower.1 = (e.readSerial c).2.readFixedId.2.readPower.1 := rfl

/-- INIT routes to the bind address, which writes all five indices of `LADDR` (R236). -/
theorem init_laddr_written (s : State) {i : Nat} (hi : i < 5) : s.init.laddr.read i ≠ none := by
  rw [init_eq, Memory.read_ofBytes, ne_eq, List.getElem?_eq_none_iff, Addr.length_toList]
  omega

/-- Settles O38: by `init_eq` INIT writes each register from `CFG`, the address it derives and the power
level it reads, and the phase returns to Bind nowhere else (R230). -/
theorem initForgetsTheOldSession : Obligations.InitForgetsTheOldSession := by
  refine ⟨fun s => ⟨s.init, rfl, ?_⟩, ?_, ?_⟩
  · have laddr : ∀ i, i < 5 → s.init.laddr.read i ≠ none := fun _ => init_laddr_written s
    rw [init_eq] at laddr ⊢
    exact ⟨rfl, rfl, rfl, rfl, rfl, rfl, nofun, nofun, nofun, nofun, nofun, rfl, laddr⟩
  · intro s t s' t' hcfg hdir hserial hfixedId hpower determined hs ht
    obtain rfl : s.init = s' := Host.Outcome.next.inj hs
    obtain rfl : t.init = t' := Host.Outcome.next.inj ht
    simp only [← hcfg] at hserial hfixedId hpower
    have htxa := deriveTxa_eq_of_inputs hdir hserial hfixedId determined
    simp only [init_eq, deriveTxa_readPower, ← hcfg, ← hpower, ← htxa, and_self, and_true]
    exact ⟨_, rfl, rfl⟩
  · intro i s t h hdata hbind
    have moved : t.phase ≠ s.phase := by simp [hdata, hbind]
    obtain ⟨hi, -⟩ | ⟨-, hphase, -⟩ := phaseNeverRegresses.1 i s t h moved
    · exact hi
    · nomatch hphase.symm.trans hdata

/-! ### Power-on, TICK while stopped and DEINIT (R300, R302, R322) -/

/-- Settles O1: power-on leaves `TXA`, `LSIGN` and `ALEN` unwritten, which is where the encoders, ARM and
LL.SEND fault, and its empty command port makes the step idle. -/
theorem powerOnLeavesAllButRunAndPidUnwritten : Obligations.PowerOnLeavesAllButRunAndPidUnwritten := by
  refine ⟨rfl, ?_⟩
  rintro c s rfl
  have idle : step (State.powerOn c) = .next (State.powerOn c) :=
    (stepRunsTheDecodedCommand (State.powerOn c)).2.1 rfl
  exact ⟨rfl, rfl, fun _ => rfl, rfl, rfl, rfl, rfl, rfl, rfl, rfl, rfl, rfl, rfl, fun _ => rfl, rfl,
    fun _ => rfl, rfl, rfl, idle, exec_tick_stopped rfl, exec_encBind_unwritten_txa rfl,
    exec_encData_unwritten_lsign rfl, fun _ => exec_arm_unwritten_lsign rfl,
    fun _ => exec_llSend_unwritten_alen rfl⟩

/-- Settles O39: admission comes before any register is read. -/
theorem tickIsRefusedWhileStopped : Obligations.TickIsRefusedWhileStopped :=
  fun _ => exec_tick_stopped

/-- Settles O45: `deinit_eq` is the whole next state. -/
theorem deinitStopsAndReports : Obligations.DeinitStopsAndReports := fun s =>
  congrArg Host.Outcome.next (deinit_eq s)

end Sys2Proof.Machine
end
